-- ==== Sys2Proof/Word.lean ====
section
/-! DEFINITION. The word type of the block: every register access moves one byte (00_scope.md R6 `DATA_WIDTH`,
20_memory.md R63). -/

namespace Sys2Proof

/-- A register byte. Bit 7 is the most significant bit, bit 0 the least (00_scope.md R7). -/
abbrev Byte := BitVec 8

end Sys2Proof
end

