-- ==== Sys2Proof/Config.lean ====
section
/-! DEFINITION. What is fixed for the block (00_scope.md R6) and the free bytes of `draw u8` (00_scope.md R10). -/

namespace Sys2Proof

/-- `FIFO_DEPTH`: entries of an SIO receive FIFO (00_scope.md R6). -/
def Config.fifoDepth : Nat := 3

/-- The byte of the `n`-th `draw u8` of a run: a free value, nothing is known of it (00_scope.md R10,
93_implementation_defined.md U5, U6, U7; log 6). -/
opaque Config.freeByte : Nat → Byte

end Sys2Proof
end

