-- ==== Sys2Proof/Syntax.lean ====
section
/-! DEFINITION. The operands, the control-byte formats and the 79 instructions of the block: one constructor of `Instr`
for each row of spec/opcode_table.json. -/

namespace Sys2Proof

/-! ## Operands -/

/-- A CTC channel index, 0 to 3 (20_memory.md R60). -/
inductive CtcIx where
  | c0 | c1 | c2 | c3
deriving DecidableEq, Repr

/-- A PIO port or an SIO channel: A is index 0, B is index 1 (20_memory.md R60). -/
inductive Side where
  | a | b
deriving DecidableEq, Repr

/-- The two register selectors of a channel or port (20_memory.md R60). -/
inductive Selector where
  | control | data
deriving DecidableEq, Repr

/-- The three devices of the block (10_state.md R20). -/
inductive Device where
  | ctc | pio | sio
deriving DecidableEq, Repr

/-- The four operating modes of a PIO port (10_state.md R25). -/
inductive PioMode where
  | byteOut | byteIn | byteInOut | bitInOut
deriving DecidableEq, Repr

/-- How the next control byte of a PIO port is decoded (10_state.md R25, R40). -/
inductive NextControl where
  | command | directionMask | interruptMask
deriving DecidableEq, Repr

/-- The three interrupt sources of an SIO channel (10_state.md R34). -/
inductive SioKind where
  | rx | tx | ext
deriving DecidableEq, Repr

/-! ## Fields of the control bytes -/

/-- The seven fields of a CTC channel control word, bits 7 down to 1 (30_encoding.md R82). -/
structure CtcControl where
  /-- bit 7 -/
  interruptEnable : Bool
  /-- bit 6: true = counter mode, false = timer mode -/
  counterMode : Bool
  /-- bit 5: true = divide by 256, false = by 16 -/
  prescale256 : Bool
  /-- bit 4: true = rising edges qualify -/
  risingEdge : Bool
  /-- bit 3 -/
  waitForTrigger : Bool
  /-- bit 2 -/
  constantFollows : Bool
  /-- bit 1 -/
  softwareReset : Bool
deriving DecidableEq, Repr

/-- The fields of a PIO interrupt control word, bits 7 down to 4 (30_encoding.md R87). -/
structure PioCondition where
  /-- bit 7 -/
  interruptEnable : Bool
  /-- bit 6: true = AND, false = OR -/
  andCombined : Bool
  /-- bit 5: true = a line counts when 1 -/
  activeHigh : Bool
  /-- bit 4 -/
  maskFollows : Bool
deriving DecidableEq, Repr

/-- The command field of SIO `wr[0]`, codes 0 to 7 in order (30_encoding.md R94). -/
inductive SioCommand where
  | null | cmd1None | resetExtStatus | channelReset | enableFirstChar | resetTxInt | errorReset | reti
deriving DecidableEq, Repr

/-- The fields of SIO `wr[1]` (30_encoding.md R95). -/
structure Wr1 where
  /-- bits 7:5, stored only -/
  waitReady : BitVec 3
  /-- bits 4:3 -/
  rxMode : BitVec 2
  /-- bit 2 -/
  statusAffectsVector : Bool
  /-- bit 1 -/
  txIntEnable : Bool
  /-- bit 0 -/
  extIntEnable : Bool
deriving DecidableEq, Repr

/-- The fields of SIO `wr[3]` (30_encoding.md R97). -/
structure Wr3 where
  /-- bits 7:6 -/
  rxBits : BitVec 2
  /-- bits 5:1, stored only -/
  stored : BitVec 5
  /-- bit 0 -/
  rxEnable : Bool
deriving DecidableEq, Repr

/-- The fields of SIO `wr[4]` (30_encoding.md R98). -/
structure Wr4 where
  /-- bits 7:6 -/
  clockRate : BitVec 2
  /-- bits 5:4, stored only -/
  syncMode : BitVec 2
  /-- bits 3:2 -/
  stopBits : BitVec 2
  /-- bit 1, stored only -/
  parityEven : Bool
  /-- bit 0 -/
  parityEnable : Bool
deriving DecidableEq, Repr

/-- The fields of SIO `wr[5]` (30_encoding.md R99). -/
structure Wr5 where
  /-- bit 7, stored only -/
  dtr : Bool
  /-- bits 6:5 -/
  txBits : BitVec 2
  /-- bit 4, stored only -/
  sendBreak : Bool
  /-- bit 3 -/
  txEnable : Bool
  /-- bit 2, stored only -/
  crcSelect : Bool
  /-- bit 1, stored only -/
  rts : Bool
  /-- bit 0, stored only -/
  txCrcEnable : Bool
deriving DecidableEq, Repr

/-! ## The byte formats, as the decoders of 30_encoding.md R81, R85 and R93 give them -/

/-- The formats of a byte written to a CTC channel (30_encoding.md R81 to R84). -/
inductive CtcByte where
  /-- `CTC.TC` -/
  | timeConstant (t : Byte)
  /-- `CTC.VEC`: bits 7:3, and the ignored bits 2:1 -/
  | vector (base : BitVec 5) (ignored : BitVec 2)
  /-- `CTC.CW` -/
  | control (w : CtcControl)
deriving DecidableEq, Repr

/-- The formats of a byte written to a PIO control selector (30_encoding.md R85 to R92). -/
inductive PioByte where
  /-- `PIO.DIR` -/
  | direction (m : Byte)
  /-- `PIO.IMASK` -/
  | interruptMask (m : Byte)
  /-- `PIO.VEC`: bits 7:1 -/
  | vector (v : BitVec 7)
  /-- `PIO.MODE`: the mode of bits 7:6, and the ignored bits 5:4 -/
  | mode (m : PioMode) (ignored : BitVec 2)
  /-- `PIO.ICW` -/
  | condition (w : PioCondition)
  /-- `PIO.IEW`: bit 7, and the ignored bits 6:4 -/
  | enable (e : Bool) (ignored : BitVec 3)
  /-- `PIO.RSVD`, low nibbles 1, 5, 9, D: bits 7:2 -/
  | reserved (ignored : BitVec 6)
  /-- `PIO.RSVD.B`, low nibble B: bits 7:4 -/
  | reservedB (ignored : BitVec 4)
deriving DecidableEq, Repr

/-- The formats of a byte written to an SIO control selector (30_encoding.md R93 to R100). -/
inductive SioByte where
  /-- `SIO.WR0`: command 5:3, CRC reset code 7:6, pointer 2:0 -/
  | wr0 (cmd : SioCommand) (crc : BitVec 2) (ptr : BitVec 3)
  | wr1 (w : Wr1)
  | wr2 (v : Byte)
  | wr3 (w : Wr3)
  | wr4 (w : Wr4)
  | wr5 (w : Wr5)
  | wr6 (v : Byte)
  | wr7 (v : Byte)
deriving DecidableEq, Repr

/-! ## The instructions -/

/-- The instructions of the block: one constructor for each row of spec/opcode_table.json. A byte-format row is the
write of that byte to the selector (log 3); a read-format or vector row is the access that returns that byte (log 4).
The count of `onClockPulses` is the source's `u32` (00_scope.md R6); the other counts are natural numbers. -/
inductive Instr where
  -- CTC byte formats (either selector reaches the one register of the channel, 41_ctc.md R144)
  | ctcTc (i : CtcIx) (sel : Selector) (t : Byte)
  | ctcVec (i : CtcIx) (sel : Selector) (base : BitVec 5) (ignored : BitVec 2)
  | ctcCw (i : CtcIx) (sel : Selector) (w : CtcControl)
  -- PIO byte formats
  | pioDir (p : Side) (m : Byte)
  | pioImask (p : Side) (m : Byte)
  | pioVec (p : Side) (v : BitVec 7)
  | pioMode (p : Side) (m : PioMode) (ignored : BitVec 2)
  | pioIcw (p : Side) (w : PioCondition)
  | pioIew (p : Side) (e : Bool) (ignored : BitVec 3)
  | pioRsvd (p : Side) (ignored : BitVec 6)
  | pioRsvdB (p : Side) (ignored : BitVec 4)
  -- SIO byte formats
  | sioWr0Null (c : Side) (crc : BitVec 2) (ptr : BitVec 3)
  | sioWr0Cmd1None (c : Side) (crc : BitVec 2) (ptr : BitVec 3)
  | sioWr0ResetExtStatus (c : Side) (crc : BitVec 2) (ptr : BitVec 3)
  | sioWr0ChannelReset (c : Side) (crc : BitVec 2) (ptr : BitVec 3)
  | sioWr0EnableFirstChar (c : Side) (crc : BitVec 2) (ptr : BitVec 3)
  | sioWr0ResetTxInt (c : Side) (crc : BitVec 2) (ptr : BitVec 3)
  | sioWr0ErrorReset (c : Side) (crc : BitVec 2) (ptr : BitVec 3)
  | sioWr0Reti (c : Side) (crc : BitVec 2) (ptr : BitVec 3)
  | sioWr1 (c : Side) (w : Wr1)
  | sioWr2 (c : Side) (v : Byte)
  | sioWr3 (c : Side) (w : Wr3)
  | sioWr4 (c : Side) (w : Wr4)
  | sioWr5 (c : Side) (w : Wr5)
  | sioWr6 (c : Side) (v : Byte)
  | sioWr7 (c : Side) (v : Byte)
  -- status bytes read, and vector bytes returned
  | sioRr0 (c : Side)
  | sioRr1 (c : Side)
  | ctcVector
  | pioVector
  | sioVector
  -- CTC operations
  | ctcWriteControl (i : CtcIx) (b : Byte)
  | ctcWriteData (i : CtcIx) (b : Byte)
  | ctcReadData (i : CtcIx)
  | ctcReadControl (i : CtcIx)
  | ctcOnClockPulses (n : BitVec 32)
  | ctcExternalEdge (i : CtcIx) (rising : Bool)
  | ctcExternalPulses (i : CtcIx) (n : Nat)
  | ctcConnectCascade (src dst : CtcIx)
  | ctcIsRequested
  | ctcIsAccepted
  | ctcAccept
  | ctcFinish
  | ctcStatusSnapshot
  | ctcReset (powerOn : Bool)
  -- PIO operations
  | pioWriteControl (p : Side) (b : Byte)
  | pioWriteData (p : Side) (v : Byte)
  | pioReadData (p : Side)
  | pioReadControl (p : Side)
  | pioPutInValue (p : Side) (v m : Byte) (strobe : Bool)
  | pioFetchOutValue (p : Side) (strobe : Bool)
  | pioOnClockPulses (n : BitVec 32)
  | pioIsRequested
  | pioIsAccepted
  | pioAccept
  | pioFinish
  | pioStatusSnapshot
  | pioReset (powerOn : Bool)
  -- SIO operations
  | sioWriteControl (c : Side) (b : Byte)
  | sioReadControl (c : Side)
  | sioWriteData (c : Side) (v : Byte)
  | sioReadData (c : Side)
  | sioAvailable (c : Side)
  | sioPutToReceiver (c : Side) (v : Byte)
  | sioClockPulseReceiver (c : Side) (n : Nat)
  | sioClockPulseSender (c : Side) (n : Nat)
  | sioSetClearToSend (c : Side) (level : Bool)
  | sioSetDataCarrierDetect (c : Side) (level : Bool)
  | sioOnClockPulses (n : BitVec 32)
  | sioIsRequested
  | sioIsAccepted
  | sioAccept
  | sioFinish
  | sioStatusSnapshot
  | sioReset (powerOn : Bool)
  | sioSetReg (c : Side) (n : BitVec 3) (b : Byte)
  -- daisy-chain operations
  | chainRequest
  | chainAccept
  | chainFinish
deriving DecidableEq, Repr

end Sys2Proof
end

