-- ==== Sys2Proof/WellFormed.lean ====
section
/-! DEFINITION. The operands the types of Syntax.lean do not bound: the register number of `sio.setReg`
(30_encoding.md R108) and the pulse counts that a frame must carry (log 12). -/

namespace Sys2Proof

/-- `sio.setReg` takes a register number 1 to 7 (30_encoding.md R108). -/
def setRegNumberOk (n : BitVec 3) : Bool := n != 0

/-- A count of pulses fits the 32 bits of a frame's count (log 12). -/
def pulseCountOk (n : Nat) : Bool := decide (n < 2 ^ 32)

/-- The checks of the instruction's operands. -/
def Instr.wellFormed : Instr → Bool
  | .sioSetReg _ n _ => setRegNumberOk n
  | .ctcExternalPulses _ n => pulseCountOk n
  | .sioClockPulseReceiver _ n => pulseCountOk n
  | .sioClockPulseSender _ n => pulseCountOk n
  | .ctcTc .. | .ctcVec .. | .ctcCw .. | .pioDir .. | .pioImask .. | .pioVec .. | .pioMode .. | .pioIcw ..
  | .pioIew .. | .pioRsvd .. | .pioRsvdB .. | .sioWr0Null .. | .sioWr0Cmd1None .. | .sioWr0ResetExtStatus ..
  | .sioWr0ChannelReset .. | .sioWr0EnableFirstChar .. | .sioWr0ResetTxInt .. | .sioWr0ErrorReset ..
  | .sioWr0Reti .. | .sioWr1 .. | .sioWr2 .. | .sioWr3 .. | .sioWr4 .. | .sioWr5 .. | .sioWr6 .. | .sioWr7 ..
  | .sioRr0 .. | .sioRr1 .. | .ctcVector .. | .pioVector .. | .sioVector .. | .ctcWriteControl ..
  | .ctcWriteData .. | .ctcReadData .. | .ctcReadControl .. | .ctcOnClockPulses .. | .ctcExternalEdge ..
  | .ctcConnectCascade .. | .ctcIsRequested .. | .ctcIsAccepted .. | .ctcAccept .. | .ctcFinish ..
  | .ctcStatusSnapshot .. | .ctcReset .. | .pioWriteControl .. | .pioWriteData .. | .pioReadData ..
  | .pioReadControl .. | .pioPutInValue .. | .pioFetchOutValue .. | .pioOnClockPulses .. | .pioIsRequested ..
  | .pioIsAccepted .. | .pioAccept .. | .pioFinish .. | .pioStatusSnapshot .. | .pioReset ..
  | .sioWriteControl .. | .sioReadControl .. | .sioWriteData .. | .sioReadData .. | .sioAvailable ..
  | .sioPutToReceiver .. | .sioSetClearToSend .. | .sioSetDataCarrierDetect .. | .sioOnClockPulses ..
  | .sioIsRequested .. | .sioIsAccepted .. | .sioAccept .. | .sioFinish .. | .sioStatusSnapshot ..
  | .sioReset .. | .chainRequest .. | .chainAccept .. | .chainFinish .. => true

end Sys2Proof
end

