-- ==== Sys2Proof/Decode.lean ====
section
/-! DEFINITION. The decoders of the control bytes (30_encoding.md R81, R85, R93) and their encoders; then the frames in
which operations reach the block (log 1): the decoder, total on any bytes, and the encoder. -/

namespace Sys2Proof

/-! ## CTC bytes -/

/-- The decoder of 30_encoding.md R81, with the fields of R82 to R84. -/
def decodeCtc (expectTimeConstant : Bool) (b : Byte) : CtcByte :=
  if expectTimeConstant then .timeConstant b
  else if b.getLsbD 0 then
    .control { interruptEnable := b.getLsbD 7, counterMode := b.getLsbD 6, prescale256 := b.getLsbD 5,
               risingEdge := b.getLsbD 4, waitForTrigger := b.getLsbD 3, constantFollows := b.getLsbD 2,
               softwareReset := b.getLsbD 1 }
  else .vector (b.extractLsb' 3 5) (b.extractLsb' 1 2)

/-- The byte of a CTC control word (30_encoding.md R82). -/
def encodeCtcControl (w : CtcControl) : Byte :=
  BitVec.ofBool w.interruptEnable ++ BitVec.ofBool w.counterMode ++ BitVec.ofBool w.prescale256 ++
    BitVec.ofBool w.risingEdge ++ BitVec.ofBool w.waitForTrigger ++ BitVec.ofBool w.constantFollows ++
    BitVec.ofBool w.softwareReset ++ 1#1

/-- The byte of a CTC vector word (30_encoding.md R83). -/
def encodeCtcVector (base : BitVec 5) (ignored : BitVec 2) : Byte := base ++ ignored ++ 0#1

/-- The byte of a CTC format. -/
def encodeCtc : CtcByte → Byte
  | .timeConstant t => t
  | .vector base ignored => encodeCtcVector base ignored
  | .control w => encodeCtcControl w

/-! ## PIO bytes -/

/-- The mode code of bits 7:6 of a PIO mode word (30_encoding.md R86). -/
def decodePioMode (m : BitVec 2) : PioMode :=
  if m = 0 then .byteOut else if m = 1 then .byteIn else if m = 2 then .byteInOut else .bitInOut

/-- The code of a PIO mode (30_encoding.md R86). -/
def encodePioMode : PioMode → BitVec 2
  | .byteOut => 0
  | .byteIn => 1
  | .byteInOut => 2
  | .bitInOut => 3

/-- The decoder of 30_encoding.md R85, with the fields of R86 to R92. -/
def decodePio (next : NextControl) (b : Byte) : PioByte :=
  match next with
  | .directionMask => .direction b
  | .interruptMask => .interruptMask b
  | .command =>
    if !b.getLsbD 0 then .vector (b.extractLsb' 1 7)
    else if b.extractLsb' 0 4 = 0b1111#4 then .mode (decodePioMode (b.extractLsb' 6 2)) (b.extractLsb' 4 2)
    else if b.extractLsb' 0 4 = 0b0111#4 then
      .condition { interruptEnable := b.getLsbD 7, andCombined := b.getLsbD 6, activeHigh := b.getLsbD 5,
                   maskFollows := b.getLsbD 4 }
    else if b.extractLsb' 0 4 = 0b0011#4 then .enable (b.getLsbD 7) (b.extractLsb' 4 3)
    else if b.extractLsb' 0 4 = 0b1011#4 then .reservedB (b.extractLsb' 4 4)
    else .reserved (b.extractLsb' 2 6)

/-- The byte of a PIO interrupt control word (30_encoding.md R87). -/
def encodePioCondition (w : PioCondition) : Byte :=
  BitVec.ofBool w.interruptEnable ++ BitVec.ofBool w.andCombined ++ BitVec.ofBool w.activeHigh ++
    BitVec.ofBool w.maskFollows ++ 0b0111#4

/-- The byte of a PIO format. -/
def encodePio : PioByte → Byte
  | .direction m => m
  | .interruptMask m => m
  | .vector v => v ++ 0#1
  | .mode m ignored => encodePioMode m ++ ignored ++ 0b1111#4
  | .condition w => encodePioCondition w
  | .enable e ignored => BitVec.ofBool e ++ ignored ++ 0b0011#4
  | .reserved ignored => ignored ++ 0b01#2
  | .reservedB ignored => ignored ++ 0b1011#4

/-! ## SIO bytes -/

/-- The command of bits 5:3 of SIO `wr[0]` (30_encoding.md R94). -/
def decodeSioCommand (code : BitVec 3) : SioCommand :=
  match code.toNat with
  | 0 => .null
  | 1 => .cmd1None
  | 2 => .resetExtStatus
  | 3 => .channelReset
  | 4 => .enableFirstChar
  | 5 => .resetTxInt
  | 6 => .errorReset
  | _ => .reti

/-- The code of an SIO command (30_encoding.md R94). -/
def encodeSioCommand : SioCommand → BitVec 3
  | .null => 0
  | .cmd1None => 1
  | .resetExtStatus => 2
  | .channelReset => 3
  | .enableFirstChar => 4
  | .resetTxInt => 5
  | .errorReset => 6
  | .reti => 7

/-- The fields of SIO `wr[1]` (30_encoding.md R95). -/
def decodeWr1 (b : Byte) : Wr1 :=
  { waitReady := b.extractLsb' 5 3, rxMode := b.extractLsb' 3 2, statusAffectsVector := b.getLsbD 2,
    txIntEnable := b.getLsbD 1, extIntEnable := b.getLsbD 0 }

/-- The fields of SIO `wr[3]` (30_encoding.md R97). -/
def decodeWr3 (b : Byte) : Wr3 :=
  { rxBits := b.extractLsb' 6 2, stored := b.extractLsb' 1 5, rxEnable := b.getLsbD 0 }

/-- The fields of SIO `wr[4]` (30_encoding.md R98). -/
def decodeWr4 (b : Byte) : Wr4 :=
  { clockRate := b.extractLsb' 6 2, syncMode := b.extractLsb' 4 2, stopBits := b.extractLsb' 2 2,
    parityEven := b.getLsbD 1, parityEnable := b.getLsbD 0 }

/-- The fields of SIO `wr[5]` (30_encoding.md R99). -/
def decodeWr5 (b : Byte) : Wr5 :=
  { dtr := b.getLsbD 7, txBits := b.extractLsb' 5 2, sendBreak := b.getLsbD 4, txEnable := b.getLsbD 3,
    crcSelect := b.getLsbD 2, rts := b.getLsbD 1, txCrcEnable := b.getLsbD 0 }

/-- The decoder of 30_encoding.md R93: the register the pointer addresses decides. -/
def decodeSio (ptr : BitVec 3) (b : Byte) : SioByte :=
  match ptr.toNat with
  | 0 => .wr0 (decodeSioCommand (b.extractLsb' 3 3)) (b.extractLsb' 6 2) (b.extractLsb' 0 3)
  | 1 => .wr1 (decodeWr1 b)
  | 2 => .wr2 b
  | 3 => .wr3 (decodeWr3 b)
  | 4 => .wr4 (decodeWr4 b)
  | 5 => .wr5 (decodeWr5 b)
  | 6 => .wr6 b
  | _ => .wr7 b

/-- The byte of an SIO command (30_encoding.md R94). -/
def encodeWr0 (cmd : SioCommand) (crc : BitVec 2) (ptr : BitVec 3) : Byte := crc ++ encodeSioCommand cmd ++ ptr

/-- The byte of SIO `wr[1]` (30_encoding.md R95). -/
def encodeWr1 (w : Wr1) : Byte :=
  w.waitReady ++ w.rxMode ++ BitVec.ofBool w.statusAffectsVector ++ BitVec.ofBool w.txIntEnable ++
    BitVec.ofBool w.extIntEnable

/-- The byte of SIO `wr[3]` (30_encoding.md R97). -/
def encodeWr3 (w : Wr3) : Byte := w.rxBits ++ w.stored ++ BitVec.ofBool w.rxEnable

/-- The byte of SIO `wr[4]` (30_encoding.md R98). -/
def encodeWr4 (w : Wr4) : Byte :=
  w.clockRate ++ w.syncMode ++ w.stopBits ++ BitVec.ofBool w.parityEven ++ BitVec.ofBool w.parityEnable

/-- The byte of SIO `wr[5]` (30_encoding.md R99). -/
def encodeWr5 (w : Wr5) : Byte :=
  BitVec.ofBool w.dtr ++ w.txBits ++ BitVec.ofBool w.sendBreak ++ BitVec.ofBool w.txEnable ++
    BitVec.ofBool w.crcSelect ++ BitVec.ofBool w.rts ++ BitVec.ofBool w.txCrcEnable

/-- The byte of an SIO format. -/
def encodeSio : SioByte → Byte
  | .wr0 cmd crc ptr => encodeWr0 cmd crc ptr
  | .wr1 w => encodeWr1 w
  | .wr2 v => v
  | .wr3 w => encodeWr3 w
  | .wr4 w => encodeWr4 w
  | .wr5 w => encodeWr5 w
  | .wr6 v => v
  | .wr7 v => v

/-! ## Frames: how one operation reaches the block (log 1)

A frame is eight bytes: the data byte (the byte of the table's row, in its own bits), the operation code, the channel or
port index, a second operand byte, and a 32-bit count or flag, low byte first. Codes 0 to 2 are a byte written to a
control selector, the second operand giving the sequencing state the byte is meant for (30_encoding.md R80). -/

/-- The fields of a frame. -/
structure Frame where
  data : Byte
  code : Byte
  index : Byte
  aux : Byte
  count : BitVec 32
deriving DecidableEq, Repr

/-- Why bytes are no instruction: each is safe, the step then refuses. -/
inductive DecodeError where
  /-- not eight bytes -/
  | badLength
  /-- no operation has this code -/
  | unknownOperation
  /-- a channel, port or register index out of range (93_implementation_defined.md U1) -/
  | indexOutOfRange
  /-- a bit is set that the operation's frame does not use -/
  | strayBits
deriving DecidableEq, Repr

/-- The eight bytes of a frame. -/
def Frame.bytes (f : Frame) : List Byte :=
  [f.data, f.code, f.index, f.aux, f.count.extractLsb' 0 8, f.count.extractLsb' 8 8, f.count.extractLsb' 16 8,
    f.count.extractLsb' 24 8]

/-- The frame of eight bytes. -/
def frameOfBytes : List Byte → Option Frame
  | [d, o, i, x, n0, n1, n2, n3] => some { data := d, code := o, index := i, aux := x, count := n3 ++ n2 ++ n1 ++ n0 }
  | _ => none

/-- The number of a CTC channel. -/
def CtcIx.toNat : CtcIx → Nat
  | .c0 => 0
  | .c1 => 1
  | .c2 => 2
  | .c3 => 3

/-- The number of a port or SIO channel: A is 0, B is 1 (20_memory.md R60). -/
def Side.toNat : Side → Nat
  | .a => 0
  | .b => 1

/-- The CTC channel of an index byte (20_memory.md R60, R63). -/
def ctcIxOf (b : Byte) : Except DecodeError CtcIx :=
  match b.toNat with
  | 0 => .ok .c0
  | 1 => .ok .c1
  | 2 => .ok .c2
  | 3 => .ok .c3
  | _ => .error .indexOutOfRange

/-- The port or SIO channel of an index byte (20_memory.md R60, R63). -/
def sideOf (b : Byte) : Except DecodeError Side :=
  match b.toNat with
  | 0 => .ok .a
  | 1 => .ok .b
  | _ => .error .indexOutOfRange

/-- The code of a PIO sequencing state in a frame. -/
def NextControl.toNat : NextControl → Nat
  | .command => 0
  | .directionMask => 1
  | .interruptMask => 2

/-- The PIO sequencing state of a frame's second operand. -/
def nextControlOf (b : Byte) : Except DecodeError NextControl :=
  match b.toNat with
  | 0 => .ok .command
  | 1 => .ok .directionMask
  | 2 => .ok .interruptMask
  | _ => .error .strayBits

/-- The second operand of a CTC byte: bit 0 = a time constant is expected, bit 1 = the data selector. -/
def ctcAux (expectTimeConstant : Bool) (sel : Selector) : Byte :=
  0#6 ++ BitVec.ofBool (sel = .data) ++ BitVec.ofBool expectTimeConstant

/-- The frame of an instruction. -/
def Instr.frame : Instr → Frame
  | .ctcTc i sel t => ⟨encodeCtc (.timeConstant t), 2, .ofNat 8 i.toNat, ctcAux true sel, 0⟩
  | .ctcVec i sel base x => ⟨encodeCtc (.vector base x), 2, .ofNat 8 i.toNat, ctcAux false sel, 0⟩
  | .ctcCw i sel w => ⟨encodeCtc (.control w), 2, .ofNat 8 i.toNat, ctcAux false sel, 0⟩
  | .pioDir p m => ⟨encodePio (.direction m), 1, .ofNat 8 p.toNat, 1, 0⟩
  | .pioImask p m => ⟨encodePio (.interruptMask m), 1, .ofNat 8 p.toNat, 2, 0⟩
  | .pioVec p v => ⟨encodePio (.vector v), 1, .ofNat 8 p.toNat, 0, 0⟩
  | .pioMode p m x => ⟨encodePio (.mode m x), 1, .ofNat 8 p.toNat, 0, 0⟩
  | .pioIcw p w => ⟨encodePio (.condition w), 1, .ofNat 8 p.toNat, 0, 0⟩
  | .pioIew p e x => ⟨encodePio (.enable e x), 1, .ofNat 8 p.toNat, 0, 0⟩
  | .pioRsvd p x => ⟨encodePio (.reserved x), 1, .ofNat 8 p.toNat, 0, 0⟩
  | .pioRsvdB p x => ⟨encodePio (.reservedB x), 1, .ofNat 8 p.toNat, 0, 0⟩
  | .sioWr0Null c crc ptr => ⟨encodeWr0 .null crc ptr, 0, .ofNat 8 c.toNat, 0, 0⟩
  | .sioWr0Cmd1None c crc ptr => ⟨encodeWr0 .cmd1None crc ptr, 0, .ofNat 8 c.toNat, 0, 0⟩
  | .sioWr0ResetExtStatus c crc ptr => ⟨encodeWr0 .resetExtStatus crc ptr, 0, .ofNat 8 c.toNat, 0, 0⟩
  | .sioWr0ChannelReset c crc ptr => ⟨encodeWr0 .channelReset crc ptr, 0, .ofNat 8 c.toNat, 0, 0⟩
  | .sioWr0EnableFirstChar c crc ptr => ⟨encodeWr0 .enableFirstChar crc ptr, 0, .ofNat 8 c.toNat, 0, 0⟩
  | .sioWr0ResetTxInt c crc ptr => ⟨encodeWr0 .resetTxInt crc ptr, 0, .ofNat 8 c.toNat, 0, 0⟩
  | .sioWr0ErrorReset c crc ptr => ⟨encodeWr0 .errorReset crc ptr, 0, .ofNat 8 c.toNat, 0, 0⟩
  | .sioWr0Reti c crc ptr => ⟨encodeWr0 .reti crc ptr, 0, .ofNat 8 c.toNat, 0, 0⟩
  | .sioWr1 c w => ⟨encodeWr1 w, 0, .ofNat 8 c.toNat, 1, 0⟩
  | .sioWr2 c v => ⟨v, 0, .ofNat 8 c.toNat, 2, 0⟩
  | .sioWr3 c w => ⟨encodeWr3 w, 0, .ofNat 8 c.toNat, 3, 0⟩
  | .sioWr4 c w => ⟨encodeWr4 w, 0, .ofNat 8 c.toNat, 4, 0⟩
  | .sioWr5 c w => ⟨encodeWr5 w, 0, .ofNat 8 c.toNat, 5, 0⟩
  | .sioWr6 c v => ⟨v, 0, .ofNat 8 c.toNat, 6, 0⟩
  | .sioWr7 c v => ⟨v, 0, .ofNat 8 c.toNat, 7, 0⟩
  | .sioRr0 c => ⟨0, 3, .ofNat 8 c.toNat, 0, 0⟩
  | .sioRr1 c => ⟨0, 4, .ofNat 8 c.toNat, 0, 0⟩
  | .ctcVector => ⟨0, 5, 0, 0, 0⟩
  | .pioVector => ⟨0, 6, 0, 0, 0⟩
  | .sioVector => ⟨0, 7, 0, 0, 0⟩
  | .ctcWriteControl i b => ⟨b, 16, .ofNat 8 i.toNat, 0, 0⟩
  | .ctcWriteData i b => ⟨b, 17, .ofNat 8 i.toNat, 0, 0⟩
  | .ctcReadData i => ⟨0, 18, .ofNat 8 i.toNat, 0, 0⟩
  | .ctcReadControl i => ⟨0, 19, .ofNat 8 i.toNat, 0, 0⟩
  | .ctcOnClockPulses n => ⟨0, 20, 0, 0, n⟩
  | .ctcExternalEdge i rising => ⟨0, 21, .ofNat 8 i.toNat, 0, .ofNat 32 rising.toNat⟩
  | .ctcExternalPulses i n => ⟨0, 22, .ofNat 8 i.toNat, 0, .ofNat 32 n⟩
  | .ctcConnectCascade src dst => ⟨0, 23, .ofNat 8 src.toNat, .ofNat 8 dst.toNat, 0⟩
  | .ctcIsRequested => ⟨0, 24, 0, 0, 0⟩
  | .ctcIsAccepted => ⟨0, 25, 0, 0, 0⟩
  | .ctcAccept => ⟨0, 26, 0, 0, 0⟩
  | .ctcFinish => ⟨0, 27, 0, 0, 0⟩
  | .ctcStatusSnapshot => ⟨0, 28, 0, 0, 0⟩
  | .ctcReset powerOn => ⟨0, 29, 0, 0, .ofNat 32 powerOn.toNat⟩
  | .pioWriteControl p b => ⟨b, 32, .ofNat 8 p.toNat, 0, 0⟩
  | .pioWriteData p v => ⟨v, 33, .ofNat 8 p.toNat, 0, 0⟩
  | .pioReadData p => ⟨0, 34, .ofNat 8 p.toNat, 0, 0⟩
  | .pioReadControl p => ⟨0, 35, .ofNat 8 p.toNat, 0, 0⟩
  | .pioPutInValue p v m strobe => ⟨v, 36, .ofNat 8 p.toNat, m, .ofNat 32 strobe.toNat⟩
  | .pioFetchOutValue p strobe => ⟨0, 37, .ofNat 8 p.toNat, 0, .ofNat 32 strobe.toNat⟩
  | .pioOnClockPulses n => ⟨0, 38, 0, 0, n⟩
  | .pioIsRequested => ⟨0, 39, 0, 0, 0⟩
  | .pioIsAccepted => ⟨0, 40, 0, 0, 0⟩
  | .pioAccept => ⟨0, 41, 0, 0, 0⟩
  | .pioFinish => ⟨0, 42, 0, 0, 0⟩
  | .pioStatusSnapshot => ⟨0, 43, 0, 0, 0⟩
  | .pioReset powerOn => ⟨0, 44, 0, 0, .ofNat 32 powerOn.toNat⟩
  | .sioWriteControl c b => ⟨b, 48, .ofNat 8 c.toNat, 0, 0⟩
  | .sioReadControl c => ⟨0, 49, .ofNat 8 c.toNat, 0, 0⟩
  | .sioWriteData c v => ⟨v, 50, .ofNat 8 c.toNat, 0, 0⟩
  | .sioReadData c => ⟨0, 51, .ofNat 8 c.toNat, 0, 0⟩
  | .sioAvailable c => ⟨0, 52, .ofNat 8 c.toNat, 0, 0⟩
  | .sioPutToReceiver c v => ⟨v, 53, .ofNat 8 c.toNat, 0, 0⟩
  | .sioClockPulseReceiver c n => ⟨0, 54, .ofNat 8 c.toNat, 0, .ofNat 32 n⟩
  | .sioClockPulseSender c n => ⟨0, 55, .ofNat 8 c.toNat, 0, .ofNat 32 n⟩
  | .sioSetClearToSend c level => ⟨0, 56, .ofNat 8 c.toNat, 0, .ofNat 32 level.toNat⟩
  | .sioSetDataCarrierDetect c level => ⟨0, 57, .ofNat 8 c.toNat, 0, .ofNat 32 level.toNat⟩
  | .sioOnClockPulses n => ⟨0, 58, 0, 0, n⟩
  | .sioIsRequested => ⟨0, 59, 0, 0, 0⟩
  | .sioIsAccepted => ⟨0, 60, 0, 0, 0⟩
  | .sioAccept => ⟨0, 61, 0, 0, 0⟩
  | .sioFinish => ⟨0, 62, 0, 0, 0⟩
  | .sioStatusSnapshot => ⟨0, 63, 0, 0, 0⟩
  | .sioReset powerOn => ⟨0, 64, 0, 0, .ofNat 32 powerOn.toNat⟩
  | .sioSetReg c n b => ⟨b, 65, .ofNat 8 c.toNat, n.setWidth 8, 0⟩
  | .chainRequest => ⟨0, 80, 0, 0, 0⟩
  | .chainAccept => ⟨0, 81, 0, 0, 0⟩
  | .chainFinish => ⟨0, 82, 0, 0, 0⟩

/-- The instruction of a byte meant for a CTC channel. -/
def instrOfCtcByte (i : CtcIx) (sel : Selector) : CtcByte → Instr
  | .timeConstant t => .ctcTc i sel t
  | .vector base x => .ctcVec i sel base x
  | .control w => .ctcCw i sel w

/-- The instruction of a byte meant for a PIO control selector. -/
def instrOfPioByte (p : Side) : PioByte → Instr
  | .direction m => .pioDir p m
  | .interruptMask m => .pioImask p m
  | .vector v => .pioVec p v
  | .mode m x => .pioMode p m x
  | .condition w => .pioIcw p w
  | .enable e x => .pioIew p e x
  | .reserved x => .pioRsvd p x
  | .reservedB x => .pioRsvdB p x

/-- The instruction of a byte meant for an SIO control selector. -/
def instrOfSioByte (c : Side) : SioByte → Instr
  | .wr0 .null crc ptr => .sioWr0Null c crc ptr
  | .wr0 .cmd1None crc ptr => .sioWr0Cmd1None c crc ptr
  | .wr0 .resetExtStatus crc ptr => .sioWr0ResetExtStatus c crc ptr
  | .wr0 .channelReset crc ptr => .sioWr0ChannelReset c crc ptr
  | .wr0 .enableFirstChar crc ptr => .sioWr0EnableFirstChar c crc ptr
  | .wr0 .resetTxInt crc ptr => .sioWr0ResetTxInt c crc ptr
  | .wr0 .errorReset crc ptr => .sioWr0ErrorReset c crc ptr
  | .wr0 .reti crc ptr => .sioWr0Reti c crc ptr
  | .wr1 w => .sioWr1 c w
  | .wr2 v => .sioWr2 c v
  | .wr3 w => .sioWr3 c w
  | .wr4 w => .sioWr4 c w
  | .wr5 w => .sioWr5 c w
  | .wr6 v => .sioWr6 c v
  | .wr7 v => .sioWr7 c v

/-- The flag operand of a frame. -/
def Frame.flag (f : Frame) : Bool := f.count.getLsbD 0

/-- The instruction a frame's code and operands name, before the check for stray bits. -/
def parseFrame (f : Frame) : Except DecodeError Instr :=
  match f.code.toNat with
  | 0 => (sideOf f.index).map fun c => instrOfSioByte c (decodeSio (f.aux.extractLsb' 0 3) f.data)
  | 1 => (sideOf f.index).bind fun p => (nextControlOf f.aux).map fun n => instrOfPioByte p (decodePio n f.data)
  | 2 => (ctcIxOf f.index).map fun i =>
      instrOfCtcByte i (if f.aux.getLsbD 1 then .data else .control) (decodeCtc (f.aux.getLsbD 0) f.data)
  | 3 => (sideOf f.index).map .sioRr0
  | 4 => (sideOf f.index).map .sioRr1
  | 5 => .ok .ctcVector
  | 6 => .ok .pioVector
  | 7 => .ok .sioVector
  | 16 => (ctcIxOf f.index).map fun i => .ctcWriteControl i f.data
  | 17 => (ctcIxOf f.index).map fun i => .ctcWriteData i f.data
  | 18 => (ctcIxOf f.index).map .ctcReadData
  | 19 => (ctcIxOf f.index).map .ctcReadControl
  | 20 => .ok (.ctcOnClockPulses f.count)
  | 21 => (ctcIxOf f.index).map fun i => .ctcExternalEdge i f.flag
  | 22 => (ctcIxOf f.index).map fun i => .ctcExternalPulses i f.count.toNat
  | 23 => (ctcIxOf f.index).bind fun i => (ctcIxOf f.aux).map fun j => .ctcConnectCascade i j
  | 24 => .ok .ctcIsRequested
  | 25 => .ok .ctcIsAccepted
  | 26 => .ok .ctcAccept
  | 27 => .ok .ctcFinish
  | 28 => .ok .ctcStatusSnapshot
  | 29 => .ok (.ctcReset f.flag)
  | 32 => (sideOf f.index).map fun p => .pioWriteControl p f.data
  | 33 => (sideOf f.index).map fun p => .pioWriteData p f.data
  | 34 => (sideOf f.index).map .pioReadData
  | 35 => (sideOf f.index).map .pioReadControl
  | 36 => (sideOf f.index).map fun p => .pioPutInValue p f.data f.aux f.flag
  | 37 => (sideOf f.index).map fun p => .pioFetchOutValue p f.flag
  | 38 => .ok (.pioOnClockPulses f.count)
  | 39 => .ok .pioIsRequested
  | 40 => .ok .pioIsAccepted
  | 41 => .ok .pioAccept
  | 42 => .ok .pioFinish
  | 43 => .ok .pioStatusSnapshot
  | 44 => .ok (.pioReset f.flag)
  | 48 => (sideOf f.index).map fun c => .sioWriteControl c f.data
  | 49 => (sideOf f.index).map .sioReadControl
  | 50 => (sideOf f.index).map fun c => .sioWriteData c f.data
  | 51 => (sideOf f.index).map .sioReadData
  | 52 => (sideOf f.index).map .sioAvailable
  | 53 => (sideOf f.index).map fun c => .sioPutToReceiver c f.data
  | 54 => (sideOf f.index).map fun c => .sioClockPulseReceiver c f.count.toNat
  | 55 => (sideOf f.index).map fun c => .sioClockPulseSender c f.count.toNat
  | 56 => (sideOf f.index).map fun c => .sioSetClearToSend c f.flag
  | 57 => (sideOf f.index).map fun c => .sioSetDataCarrierDetect c f.flag
  | 58 => .ok (.sioOnClockPulses f.count)
  | 59 => .ok .sioIsRequested
  | 60 => .ok .sioIsAccepted
  | 61 => .ok .sioAccept
  | 62 => .ok .sioFinish
  | 63 => .ok .sioStatusSnapshot
  | 64 => .ok (.sioReset f.flag)
  | 65 => (sideOf f.index).bind fun c =>
      if f.aux = 0 then .error .indexOutOfRange
      else if 7 < f.aux.toNat then .error .indexOutOfRange
      else .ok (.sioSetReg c (f.aux.extractLsb' 0 3) f.data)
  | 80 => .ok .chainRequest
  | 81 => .ok .chainAccept
  | 82 => .ok .chainFinish
  | _ => .error .unknownOperation

/-- The decoder: total on any bytes; a frame with a bit the operation does not use is refused, not read past. -/
def decode (bs : List Byte) : Except DecodeError Instr :=
  match frameOfBytes bs with
  | none => .error .badLength
  | some f =>
    match parseFrame f with
    | .error e => .error e
    | .ok i => if i.frame = f then .ok i else .error .strayBits

/-- The encoder: the eight bytes of a well-formed instruction. -/
def encode (i : Instr) : List Byte := i.frame.bytes

/-- The eight bytes of the frame whose bits are `w`, bit 0 the least significant bit of the first byte; the bits above
`nbits` are 0. -/
def frameOfWord (nbits w : Nat) : List Byte :=
  let v := BitVec.ofNat 64 (w % 2 ^ nbits)
  [v.extractLsb' 0 8, v.extractLsb' 8 8, v.extractLsb' 16 8, v.extractLsb' 24 8, v.extractLsb' 32 8, v.extractLsb' 40 8,
    v.extractLsb' 48 8, v.extractLsb' 56 8]

/-- The instruction the decoder reads from a frame given as a number (the host's question). A byte alone, every other bit
0, is a byte for the control selector of SIO channel A with the pointer at 0: the table's byte rows overlap, and code 0
is the class with the most rows that fixed bits tell apart (log 1). -/
def decodeTableWord (nbits w : Nat) : Option Instr :=
  match decode (frameOfWord nbits w) with
  | .ok i => some i
  | .error _ => none

end Sys2Proof
end

