-- ==== Sys2Proof/Machine/State.lean ====
section
/-! DEFINITION. All the state the spec gives the block (10_state.md), the model's own fields beside it, the reasons a step
can stop, and the state at construction, which is the state after `reset(true)` (70_reset_and_hazards.md R301). -/

namespace Sys2Proof.Machine

/-! ## CTC -/

/-- A Counter/Timer Channel: the fifteen fields of 10_state.md R22. A count is a natural number: the rules' arithmetic
is on naturals (00_scope.md R7; log 11). -/
structure CtcChannel where
  /-- the time constant the counter reloads from, 1..256; `none` = never loaded or cleared by software reset -/
  counterInit : Option Nat
  /-- the down-counter, 0..256 -/
  counter : Nat
  /-- pulses accumulated towards the next prescaler overflow, 0..255 -/
  prescaler : Nat
  /-- a time constant written and not yet committed, 1..256 -/
  pendingLoadValue : Option Nat
  timerMode : Bool
  prescaler256 : Bool
  triggerEdgeHigh : Bool
  waitForTrigger : Bool
  expectTimeConstant : Bool
  running : Bool
  interruptEnabled : Bool
  interruptRequested : Bool
  interruptAccepted : Bool
  cascadeFrom : Option CtcIx
  cascadeTo : Option CtcIx
deriving DecidableEq, Repr

/-- The CTC device: the shared vector register and four channels (10_state.md R21). -/
structure Ctc where
  vector : Byte
  ch0 : CtcChannel
  ch1 : CtcChannel
  ch2 : CtcChannel
  ch3 : CtcChannel
deriving DecidableEq, Repr

/-! ## PIO -/

/-- A PIO port: the fifteen fields of 10_state.md R25. -/
structure PioPort where
  mode : PioMode
  outputRegister : Byte
  inputRegister : Byte
  /-- bit = 1 makes the line an input -/
  inputDirectionMask : Byte
  /-- the bits of `inputRegister` put since the CPU last read the port -/
  valueMask : Byte
  ready : Bool
  intEnabled : Bool
  intRequested : Bool
  intAccepted : Bool
  vector : Byte
  /-- bit = 0 makes the line take part in the interrupt condition -/
  bitMask : Byte
  fireOnHigh : Bool
  bitsAndCombined : Bool
  conditionCurrentlyFulfilled : Bool
  nextControl : NextControl
deriving DecidableEq, Repr

/-- The PIO device: the one shared reset latch and two ports (10_state.md R24). -/
structure Pio where
  resetState : Bool
  portA : PioPort
  portB : PioPort
deriving DecidableEq, Repr

/-! ## SIO -/

/-- The eight write registers of an SIO channel (10_state.md R29). -/
structure WriteRegs where
  wr0 : Byte
  wr1 : Byte
  wr2 : Byte
  wr3 : Byte
  wr4 : Byte
  wr5 : Byte
  wr6 : Byte
  wr7 : Byte
deriving DecidableEq, Repr

/-- An entry of the receive FIFO: a byte and its overrun tag (10_state.md R31). -/
structure FifoEntry where
  value : Byte
  overrun : Bool
deriving DecidableEq, Repr

/-- The three entries of the receive FIFO, entry 0 the oldest; those at or above the length have no meaning
(10_state.md R31). -/
structure RxFifo where
  e0 : FifoEntry
  e1 : FifoEntry
  e2 : FifoEntry
deriving DecidableEq, Repr

/-- An SIO channel (10_state.md R29 to R34). The read registers are not stored (R30). -/
structure SioChannel where
  wr : WriteRegs
  rxOverrunLatch : Bool
  receiveFifo : RxFifo
  /-- 0..3 -/
  receiveFifoLen : Nat
  txBuffer : Byte
  txBufferEmpty : Bool
  /-- bit times left of the frame in transmission, 0..11 -/
  txBitsRemaining : Nat
  /-- pulses accumulated towards the next transmit bit time, 0..63 -/
  txDivAcc : Nat
  rxShiftBuffer : Byte
  /-- bit times left of the frame in reception, 0..11 -/
  rxBitsRemaining : Nat
  /-- pulses accumulated towards the next receive bit time, 0..63 -/
  rxDivAcc : Nat
  /-- `none` = never sampled -/
  cts : Option Bool
  /-- `none` = never sampled -/
  dcd : Option Bool
  rxRequested : Bool
  rxAccepted : Bool
  txRequested : Bool
  txAccepted : Bool
  extRequested : Bool
  extAccepted : Bool
  rxFirstCharArmed : Bool
deriving DecidableEq, Repr

/-- The SIO device has no register of its own (10_state.md R28). -/
structure Sio where
  chA : SioChannel
  chB : SioChannel
deriving DecidableEq, Repr

/-! ## Parameters and outputs -/

/-- The six orders `CHAIN_ORDER` can have: each device exactly once, highest priority first (60_exceptions.md R274). -/
inductive ChainOrder where
  | ctcPioSio | ctcSioPio | pioCtcSio | pioSioCtc | sioCtcPio | sioPioCtc
deriving DecidableEq, Repr

/-- What clocks an SIO shifter (00_scope.md R6 `SIO_CLOCK_SOURCE`). -/
inductive ClockSource where
  | systemClock | external
deriving DecidableEq, Repr

/-- The clock sources of an SIO channel's two shifters. -/
structure ShifterClocks where
  rx : ClockSource
  tx : ClockSource
deriving DecidableEq, Repr

/-- The parameters fixed before operation and changed by no operation (10_state.md R44, 70_reset_and_hazards.md R305;
log 7, log 8). -/
structure Wiring where
  chainOrder : ChainOrder
  clocksA : ShifterClocks
  clocksB : ShifterClocks
deriving DecidableEq, Repr

/-- The events of 40_contracts.md R129. -/
inductive Event where
  | zeroCrossing (i : CtcIx)
  | readyForInput (p : Side)
  | outputAvailable (p : Side) (v : Byte)
  | outputChanged (p : Side) (v : Byte)
  | interruptEnabled (p : Side)
  | interruptDisabled (p : Side)
  | byteTransmitted (c : Side) (v : Byte)
deriving DecidableEq, Repr

/-- What an operation returns (20_memory.md R61; `statusSnapshot` returns the complete device, 40_contracts.md R128). -/
inductive Reply where
  /-- the operation returns nothing -/
  | unit
  | byte (v : Byte)
  | bool (v : Bool)
  | count (n : Nat)
  | device (d : Option Device)
  | ctcReport (c : Ctc)
  | pioReport (p : Pio)
  /-- both channels, and the assembled `rr[0]`, `rr[1]` of A, then of B -/
  | sioReport (s : Sio) (rr0A rr1A rr0B rr1B : Byte)
deriving DecidableEq, Repr

/-- The twelve interrupt sources (60_exceptions.md R271). -/
inductive Source where
  | ctc (i : CtcIx)
  | pio (p : Side)
  | sio (c : Side) (k : SioKind)
deriving DecidableEq, Repr

/-! ## The machine -/

/-- The state of the block. The first three fields are the spec's state; `wiring` holds the parameters; the rest are the
model's own: `ctcOperated` (log 9), the operations not yet performed (log 2), the last operation's return value and the
events so far (log 5), the number of free bytes drawn (log 6). -/
structure State where
  ctc : Ctc
  pio : Pio
  sio : Sio
  wiring : Wiring
  /-- a CTC operation other than `connectCascade` has run (41_ctc.md R155) -/
  ctcOperated : Bool
  /-- the frames of the operations not yet performed, the next one first (20_memory.md R68) -/
  input : List (List Byte)
  reply : Reply
  /-- the events emitted so far, oldest first (00_scope.md R9) -/
  trace : List Event
  /-- how many free bytes were drawn (00_scope.md R10) -/
  draws : Nat
deriving DecidableEq, Repr

/-- The block raises no exception and no operation faults (60_exceptions.md R270): there is no fault (log 19). -/
inductive Fault where
deriving DecidableEq, Repr

/-- Why a step gives the run no meaning: an input the environment is assumed never to give (20_memory.md R73). Each is
safe: the model stops where the spec itself refuses, or where the input is no operation. -/
inductive Refusal where
  /-- an instruction without a meaning; no arm of `exec` raises it. Safe. -/
  | notModelled (mnemonic : String)
  /-- U1: raised by the step for a frame whose channel, port or register index is out of range, and by `sio.setReg` of
  register 0 (20_memory.md R63). Safe: the spec refuses. -/
  | indexOutOfRange
  /-- U2: raised by the acceptance operations when nothing is pending (40_contracts.md R126, 60_exceptions.md R276).
  Safe: the spec refuses. -/
  | acceptWithoutRequest
  /-- U3: raised by `ctc.connectCascade` for a link that is not allowed (41_ctc.md R155). Safe: the spec refuses. -/
  | badCascade
  /-- U4: raised by a PIO mode word selecting `ByteInOut` written to port B (42_pio.md R194). Safe: the spec refuses. -/
  | portBBidirectional
  /-- raised by the step for bytes that are the frame of no operation (log 1). Safe: no operation is skipped or invented. -/
  | notAnOperation (e : DecodeError)
deriving DecidableEq, Repr

/-! ## The state after `reset(true)` -/

/-- A channel after `reset(true)`, unwired (10_state.md R22, 70_reset_and_hazards.md R302). -/
def CtcChannel.powerOn : CtcChannel :=
  { counterInit := none, counter := 0, prescaler := 0, pendingLoadValue := none, timerMode := true, prescaler256 := false,
    triggerEdgeHigh := false, waitForTrigger := false, expectTimeConstant := false, running := false,
    interruptEnabled := false, interruptRequested := false, interruptAccepted := false, cascadeFrom := none,
    cascadeTo := none }

/-- The CTC at construction: `CASCADE` is empty by default (00_scope.md R6). -/
def Ctc.powerOn : Ctc :=
  { vector := 0x00, ch0 := .powerOn, ch1 := .powerOn, ch2 := .powerOn, ch3 := .powerOn }

/-- A port after `reset(true)` (10_state.md R25, 70_reset_and_hazards.md R303). -/
def PioPort.powerOn : PioPort :=
  { mode := .byteIn, outputRegister := 0x00, inputRegister := 0x00, inputDirectionMask := 0xFF, valueMask := 0x00,
    ready := false, intEnabled := false, intRequested := false, intAccepted := false, vector := 0x00, bitMask := 0xFF,
    fireOnHigh := false, bitsAndCombined := false, conditionCurrentlyFulfilled := false, nextControl := .command }

/-- The PIO after `reset(true)` (10_state.md R24). -/
def Pio.powerOn : Pio := { resetState := true, portA := .powerOn, portB := .powerOn }

/-- All eight write registers 0x00 (10_state.md R29). -/
def WriteRegs.zero : WriteRegs :=
  { wr0 := 0x00, wr1 := 0x00, wr2 := 0x00, wr3 := 0x00, wr4 := 0x00, wr5 := 0x00, wr6 := 0x00, wr7 := 0x00 }

/-- An SIO channel after `reset(true)` (10_state.md R29 to R34, 70_reset_and_hazards.md R304). -/
def SioChannel.powerOn : SioChannel :=
  { wr := .zero, rxOverrunLatch := false, receiveFifo := ⟨⟨0x00, false⟩, ⟨0x00, false⟩, ⟨0x00, false⟩⟩,
    receiveFifoLen := 0, txBuffer := 0x00, txBufferEmpty := true, txBitsRemaining := 0, txDivAcc := 0,
    rxShiftBuffer := 0x00, rxBitsRemaining := 0, rxDivAcc := 0, cts := none, dcd := none, rxRequested := false,
    rxAccepted := false, txRequested := false, txAccepted := false, extRequested := false, extAccepted := false,
    rxFirstCharArmed := false }

/-- The SIO after `reset(true)`. -/
def Sio.powerOn : Sio := { chA := .powerOn, chB := .powerOn }

/-- The parameters the model starts with: the spec's default clock sources (00_scope.md R6), and the order its examples
use (60_exceptions.md R274), a DESIGN CHOICE no statement rests on (log 7, log 8). -/
def Wiring.initial : Wiring :=
  { chainOrder := .ctcPioSio, clocksA := ⟨.systemClock, .systemClock⟩, clocksB := ⟨.systemClock, .systemClock⟩ }

/-- The machine right after reset: every device as `reset(true)` leaves it, nothing wired, no operation waiting. -/
def State.reset : State :=
  { ctc := .powerOn, pio := .powerOn, sio := .powerOn, wiring := .initial, ctcOperated := false, input := [],
    reply := .unit, trace := [], draws := 0 }

end Sys2Proof.Machine
end

