-- ==== Sys2Proof/Machine/Operands.lean ====
section
/-! DEFINITION. Operand forms: the registers an index names, the time constant of a byte, and the quantities the timing
of an SIO channel is derived from. -/

namespace Sys2Proof.Machine

/-! ## Indexed registers -/

/-- `ctc.ch[i]`. -/
def Ctc.ch (c : Ctc) : CtcIx → CtcChannel
  | .c0 => c.ch0
  | .c1 => c.ch1
  | .c2 => c.ch2
  | .c3 => c.ch3

/-- `ctc.ch[i] <- v`. -/
def Ctc.setCh (c : Ctc) (i : CtcIx) (v : CtcChannel) : Ctc :=
  match i with
  | .c0 => { c with ch0 := v }
  | .c1 => { c with ch1 := v }
  | .c2 => { c with ch2 := v }
  | .c3 => { c with ch3 := v }

/-- `pio.port[p]`. -/
def Pio.port (d : Pio) : Side → PioPort
  | .a => d.portA
  | .b => d.portB

/-- `pio.port[p] <- v`. -/
def Pio.setPort (d : Pio) (p : Side) (v : PioPort) : Pio :=
  match p with
  | .a => { d with portA := v }
  | .b => { d with portB := v }

/-- `sio.ch[c]`. -/
def Sio.ch (d : Sio) : Side → SioChannel
  | .a => d.chA
  | .b => d.chB

/-- `sio.ch[c] <- v`. -/
def Sio.setCh (d : Sio) (c : Side) (v : SioChannel) : Sio :=
  match c with
  | .a => { d with chA := v }
  | .b => { d with chB := v }

/-- `wr[n]`. -/
def WriteRegs.get (w : WriteRegs) (n : BitVec 3) : Byte :=
  match n.toNat with
  | 0 => w.wr0
  | 1 => w.wr1
  | 2 => w.wr2
  | 3 => w.wr3
  | 4 => w.wr4
  | 5 => w.wr5
  | 6 => w.wr6
  | _ => w.wr7

/-- `wr[n] <- b`. -/
def WriteRegs.set (w : WriteRegs) (n : BitVec 3) (b : Byte) : WriteRegs :=
  match n.toNat with
  | 0 => { w with wr0 := b }
  | 1 => { w with wr1 := b }
  | 2 => { w with wr2 := b }
  | 3 => { w with wr3 := b }
  | 4 => { w with wr4 := b }
  | 5 => { w with wr5 := b }
  | 6 => { w with wr6 := b }
  | _ => { w with wr7 := b }

/-- The register pointer, `wr[0][2:0]` (10_state.md R40). -/
def WriteRegs.pointer (w : WriteRegs) : BitVec 3 := w.wr0.extractLsb' 0 3

/-- `wr[0] <- wr[0] & 0xF8`: the pointer back to 0 (43_sio.md R210, R220). -/
def WriteRegs.clearPointer (w : WriteRegs) : WriteRegs := { w with wr0 := w.wr0 &&& 0xF8 }

/-- `receiveFifo[k] <- e`, `k` below 3 (10_state.md R31). -/
def RxFifo.set (f : RxFifo) (k : Nat) (e : FifoEntry) : RxFifo :=
  match k with
  | 0 => { f with e0 := e }
  | 1 => { f with e1 := e }
  | _ => { f with e2 := e }

/-- The FIFO after its oldest entry is taken: entries 1 and 2 move down, entry 2 keeps its contents (43_sio.md R224). -/
def RxFifo.shift (f : RxFifo) : RxFifo := { f with e0 := f.e1, e1 := f.e2 }

/-! ## CTC operands -/

/-- The time constant of a byte: 0 means 256 (30_encoding.md R84). -/
def timeConstantOf (b : Byte) : Nat := if b = 0 then 256 else b.toNat

/-- The prescaler divisor (41_ctc.md R148). -/
def CtcChannel.divisor (c : CtcChannel) : Nat := if c.prescaler256 then 256 else 16

/-! ## PIO operands -/

/-- The lines of a port in bit mode: inputs from outside, outputs from the output register (42_pio.md R180, R186). -/
def PioPort.lines (p : PioPort) : Byte :=
  (p.inputRegister &&& p.inputDirectionMask) ||| (p.outputRegister &&& ~~~p.inputDirectionMask)

/-! ## SIO operands (43_sio.md R226, R227) -/

/-- The character width of a two-bit code: 5, 7, 6, 8 (30_encoding.md R97, R99). -/
def characterBits (code : BitVec 2) : Nat :=
  if code = 0 then 5 else if code = 1 then 7 else if code = 2 then 6 else 8

/-- The clock-rate divisor of `wr[4][7:6]`: 1, 16, 32, 64. -/
def SioChannel.clockDiv (c : SioChannel) : Nat :=
  let code := (decodeWr4 c.wr.wr4).clockRate
  if code = 0 then 1 else if code = 1 then 16 else if code = 2 then 32 else 64

/-- The shift clocks of the stop bits, `wr[4][3:2]`: 0, 1, 2, 2; one and a half stop bits count as 2. -/
def SioChannel.stopClocks (c : SioChannel) : Nat :=
  let code := (decodeWr4 c.wr.wr4).stopBits
  if code = 0 then 0 else if code = 1 then 1 else 2

/-- The shift clock of the parity bit, `wr[4][0]`. -/
def SioChannel.parityClock (c : SioChannel) : Nat := (decodeWr4 c.wr.wr4).parityEnable.toNat

/-- Receive bits per character, `wr[3][7:6]`. -/
def SioChannel.rxDataBits (c : SioChannel) : Nat := characterBits (decodeWr3 c.wr.wr3).rxBits

/-- Transmit bits per character, `wr[5][6:5]`. -/
def SioChannel.txDataBits (c : SioChannel) : Nat := characterBits (decodeWr5 c.wr.wr5).txBits

/-- Shift clocks of a received frame; the start bit is not counted. -/
def SioChannel.rxFrame (c : SioChannel) : Nat := c.rxDataBits + c.parityClock + c.stopClocks

/-- Shift clocks of a transmitted frame; the start bit is not counted. -/
def SioChannel.txFrame (c : SioChannel) : Nat := c.txDataBits + c.parityClock + c.stopClocks

/-- The receiver's timing is valid: a stop-bit field other than 0 and the receiver enabled. -/
def SioChannel.rxValid (c : SioChannel) : Bool :=
  (decodeWr4 c.wr.wr4).stopBits != 0 && (decodeWr3 c.wr.wr3).rxEnable

/-- The transmitter's timing is valid: a stop-bit field other than 0 and the transmitter enabled. -/
def SioChannel.txValid (c : SioChannel) : Bool :=
  (decodeWr4 c.wr.wr4).stopBits != 0 && (decodeWr5 c.wr.wr5).txEnable

/-- `v & ((1 << n) - 1)`: a byte masked to a character width (40_contracts.md R130 (f)). -/
def maskToWidth (n : Nat) (v : Byte) : Byte := v &&& BitVec.ofNat 8 (2 ^ n - 1)

/-! ## Parameters -/

/-- The devices in the order of the chain, highest priority first (60_exceptions.md R274). -/
def ChainOrder.devices : ChainOrder → List Device
  | .ctcPioSio => [.ctc, .pio, .sio]
  | .ctcSioPio => [.ctc, .sio, .pio]
  | .pioCtcSio => [.pio, .ctc, .sio]
  | .pioSioCtc => [.pio, .sio, .ctc]
  | .sioCtcPio => [.sio, .ctc, .pio]
  | .sioPioCtc => [.sio, .pio, .ctc]

/-- The clock sources of an SIO channel (00_scope.md R6). -/
def Wiring.clocks (w : Wiring) : Side → ShifterClocks
  | .a => w.clocksA
  | .b => w.clocksB

end Sys2Proof.Machine
end

