-- ==== Sys2Proof/Machine/Ops.lean ====
section
/-! DEFINITION. The named operations over the state: updates of its fields, the free bytes, batches of pulses, the
Interrupt Source Contract (requesting, accepting and finishing, shared by the twelve sources), and the fetch of the next
operation. -/

namespace Sys2Proof.Machine

/-! ## Updates of the state -/

/-- Replaces the CTC device. -/
def State.setCtc (s : State) (c : Ctc) : State := { s with ctc := c }

/-- Replaces the PIO device. -/
def State.setPio (s : State) (p : Pio) : State := { s with pio := p }

/-- Replaces the SIO device. -/
def State.setSio (s : State) (d : Sio) : State := { s with sio := d }

/-- Sets the value the operation returns (log 5). -/
def State.returning (s : State) (r : Reply) : State := { s with reply := r }

/-- Appends the events an operation emits, in order (00_scope.md R9). -/
def State.emit (s : State) (es : List Event) : State := { s with trace := s.trace ++ es }

/-- Records that a CTC operation other than `connectCascade` has run (41_ctc.md R155; log 9). -/
def State.markCtc (s : State) : State := { s with ctcOperated := true }

/-- Replaces the operations not yet performed. -/
def State.setInput (s : State) (fs : List (List Byte)) : State := { s with input := fs }

/-- Moves past the free byte just drawn (log 6). -/
def State.advanceDraws (s : State) : State := { s with draws := s.draws + 1 }

/-- Returns a free byte: the `draw u8` of 00_scope.md R10 (log 6). -/
def State.returnDraw (s : State) : State := (s.returning (.byte (Config.freeByte s.draws))).advanceDraws

/-! ## Pulses, one at a time -/

/-- `repeat n times`: the single-pulse step `f`, `n` times, with the events in order (40_contracts.md R121). -/
def repeatPulse {α : Type} (f : α → α × List Event) : Nat → α → α × List Event
  | 0, d => (d, [])
  | n + 1, d => ((repeatPulse f n (f d).1).1, (f d).2 ++ (repeatPulse f n (f d).1).2)

/-- One step after another, with the events in order. -/
def andThen {α : Type} (f g : α → α × List Event) (d : α) : α × List Event := ((g (f d).1).1, (f d).2 ++ (g (f d).1).2)

/-! ## The Interrupt Source Contract (40_contracts.md R123 to R127)

Taking an interrupt is this block's part of taking an exception (60_exceptions.md R280): one source goes from pending to
in service and its vector byte is returned. `finish` is the return (R281). -/

/-- The sources of a device, highest priority first (60_exceptions.md R273). -/
def sources : Device → List Source
  | .ctc => [.ctc .c0, .ctc .c1, .ctc .c2, .ctc .c3]
  | .pio => [.pio .a, .pio .b]
  | .sio => [.sio .a .rx, .sio .a .tx, .sio .a .ext, .sio .b .rx, .sio .b .tx, .sio .b .ext]

/-- The requested flag of an SIO source (60_exceptions.md R271). -/
def SioChannel.requested (c : SioChannel) : SioKind → Bool
  | .rx => c.rxRequested
  | .tx => c.txRequested
  | .ext => c.extRequested

/-- The accepted flag of an SIO source (60_exceptions.md R271). -/
def SioChannel.accepted (c : SioChannel) : SioKind → Bool
  | .rx => c.rxAccepted
  | .tx => c.txAccepted
  | .ext => c.extAccepted

/-- Sets the two flags of an SIO source. -/
def SioChannel.setFlags (c : SioChannel) (k : SioKind) (req acc : Bool) : SioChannel :=
  match k with
  | .rx => { c with rxRequested := req, rxAccepted := acc }
  | .tx => { c with txRequested := req, txAccepted := acc }
  | .ext => { c with extRequested := req, extAccepted := acc }

/-- The requested flag of a source (60_exceptions.md R271). -/
def State.requested (s : State) : Source → Bool
  | .ctc i => (s.ctc.ch i).interruptRequested
  | .pio p => (s.pio.port p).intRequested
  | .sio c k => (s.sio.ch c).requested k

/-- The accepted flag of a source (60_exceptions.md R271). -/
def State.accepted (s : State) : Source → Bool
  | .ctc i => (s.ctc.ch i).interruptAccepted
  | .pio p => (s.pio.port p).intAccepted
  | .sio c k => (s.sio.ch c).accepted k

/-- A source is pending: requested and not accepted (60_exceptions.md R272). -/
def State.pending (s : State) (x : Source) : Bool := s.requested x && !s.accepted x

/-- Sets the requested and the accepted flag of one source. -/
def State.setFlags (s : State) (x : Source) (req acc : Bool) : State :=
  match x with
  | .ctc i => s.setCtc (s.ctc.setCh i { s.ctc.ch i with interruptRequested := req, interruptAccepted := acc })
  | .pio p => s.setPio (s.pio.setPort p { s.pio.port p with intRequested := req, intAccepted := acc })
  | .sio c k => s.setSio (s.sio.setCh c ((s.sio.ch c).setFlags k req acc))

/-- The offset of an SIO source in the vector: the receive offset depends on the channel's overrun latch
(43_sio.md R239). -/
def sioOffset (d : Sio) : Side → SioKind → Byte
  | .a, .rx => if d.chA.rxOverrunLatch then 0x0E else 0x0C
  | .a, .tx => 0x08
  | .a, .ext => 0x0A
  | .b, .rx => if d.chB.rxOverrunLatch then 0x06 else 0x04
  | .b, .tx => 0x00
  | .b, .ext => 0x02

/-- The vector byte of an SIO source: channel B's `wr[2]`, its bits 3:1 replaced when status affects vector
(43_sio.md R239). -/
def sioVectorOf (d : Sio) (c : Side) (k : SioKind) : Byte :=
  if (decodeWr1 d.chB.wr.wr1).statusAffectsVector then (d.chB.wr.wr2 &&& 0xF1) ||| sioOffset d c k else d.chB.wr.wr2

/-- The vector byte a source returns, from the registers as they are (30_encoding.md R104, 60_exceptions.md R279). -/
def State.vectorOf (s : State) : Source → Byte
  | .ctc i => BitVec.ofNat 8 (s.ctc.vector.toNat + 2 * i.toNat)
  | .pio p => (s.pio.port p).vector
  | .sio c k => sioVectorOf s.sio c k

/-- `isRequested()` (40_contracts.md R124). -/
def State.isRequested (s : State) (d : Device) : Bool := (sources d).any s.pending

/-- `isAccepted()` (40_contracts.md R125). -/
def State.isAccepted (s : State) (d : Device) : Bool := (sources d).any s.accepted

/-- `accept()` (40_contracts.md R126): the first pending source goes in service and its vector byte is the reply; with
nothing pending the spec refuses (93_implementation_defined.md U2). -/
def acceptDevice (d : Device) (s : State) : Host.Outcome State Fault Refusal :=
  match (sources d).find? s.pending with
  | some x => .next ((s.setFlags x false true).returning (.byte (s.vectorOf x)))
  | none => .refused .acceptWithoutRequest

/-- `finish()` (40_contracts.md R127): the first accepted source is released; with nothing accepted nothing happens. -/
def finishDevice (d : Device) (s : State) : State :=
  match (sources d).find? s.accepted with
  | some x => s.setFlags x (s.requested x) false
  | none => s

/-! ## The input sequence (20_memory.md R68; log 2) -/

/-- The refusal of bytes the decoder rejects. -/
def refusalOf : DecodeError → Refusal
  | .indexOutOfRange => .indexOutOfRange
  | e => .notAnOperation e

/-- The next operation's frame and the state with it taken from the input; `none` when no operation waits. -/
def fetch (s : State) : Option (List Byte × State) :=
  match s.input with
  | [] => none
  | f :: rest => some (f, s.setInput rest)

/-- Puts a frame before the operations that wait. -/
def State.present (s : State) (f : List Byte) : State := s.setInput (f :: s.input)

end Sys2Proof.Machine
end

