-- ==== Sys2Proof/Machine/Flags.lean ====
section
/-! DEFINITION. The flags the block computes: the two SIO status bytes (10_state.md R39), the bit-mode condition of a PIO
port, and what an event does to a requested flag. -/

namespace Sys2Proof.Machine

/-! ## SIO status bytes -/

/-- `rr[0]` of a channel (30_encoding.md R101, 43_sio.md R221). -/
def State.rr0 (s : State) (c : Side) : Byte :=
  0#2 ++ BitVec.ofBool ((s.sio.ch c).cts = some true) ++ 0#1 ++ BitVec.ofBool ((s.sio.ch c).dcd = some true) ++
    BitVec.ofBool (s.sio.ch c).txBufferEmpty ++ BitVec.ofBool (c = .a ∧ s.isRequested .sio) ++
    BitVec.ofBool (0 < (s.sio.ch c).receiveFifoLen)

/-- `rr[1]` of a channel (30_encoding.md R102, 43_sio.md R222). -/
def SioChannel.rr1 (c : SioChannel) : Byte :=
  0#2 ++ BitVec.ofBool c.rxOverrunLatch ++ 0#4 ++ BitVec.ofBool c.txBufferEmpty

/-- The report of `sio.statusSnapshot()`: both channels and the four assembled read registers (43_sio.md R241). -/
def State.sioSnapshot (s : State) : Reply :=
  .sioReport s.sio (s.rr0 .a) s.sio.chA.rr1 (s.rr0 .b) s.sio.chB.rr1

/-! ## PIO condition -/

/-- `conditionOf(p)` (42_pio.md R186). -/
def PioPort.conditionOf (p : PioPort) : Bool :=
  let x := if p.fireOnHigh then p.lines else ~~~p.lines
  let monitored := ~~~p.bitMask
  if p.bitsAndCombined then monitored != 0 && (x &&& monitored == monitored) else x &&& monitored != 0

/-- `recomputeCondition(p)`: no interrupt is requested (42_pio.md R187). -/
def PioPort.recomputeCondition (p : PioPort) : PioPort :=
  { p with conditionCurrentlyFulfilled := p.mode == .bitInOut && p.conditionOf }

/-- `checkBitIOInterrupt(p)`: a request on the transition into the fulfilled condition only (42_pio.md R186); it is
reached only with the reset latch clear. -/
def PioPort.checkBitIO (p : PioPort) : PioPort :=
  { p with
    intRequested := p.intRequested || (p.conditionOf && !p.conditionCurrentlyFulfilled && p.intEnabled)
    conditionCurrentlyFulfilled := p.conditionOf }

/-- `requestInterrupt(p)`: lost while the port is disabled (42_pio.md R188). -/
def PioPort.requestInterrupt (p : PioPort) : PioPort := { p with intRequested := p.intRequested || p.intEnabled }

/-- The events of a change of a port's interrupt enable (42_pio.md R174, R176). -/
def enableEvents (p : Side) (was now : Bool) : List Event :=
  if now && !was then [.interruptEnabled p] else if was && !now then [.interruptDisabled p] else []

/-! ## SIO requests -/

/-- `receiveInterrupt(c)`, per the receive interrupt mode `wr[1][4:3]` (43_sio.md R231). -/
def SioChannel.receiveInterrupt (c : SioChannel) : SioChannel :=
  let mode := (decodeWr1 c.wr.wr1).rxMode
  if mode = 0 then c
  else if mode = 1 then
    { c with rxRequested := c.rxRequested || c.rxFirstCharArmed, rxFirstCharArmed := false }
  else { c with rxRequested := true }

/-- A change of a modem line from a known level requests the external interrupt, if enabled (43_sio.md R234, R235). -/
def SioChannel.modemChange (c : SioChannel) (old : Option Bool) (level : Bool) : SioChannel :=
  { c with
    extRequested := c.extRequested || (old != none && old != some level && (decodeWr1 c.wr.wr1).extIntEnable) }

end Sys2Proof.Machine
end

