-- ==== Sys2Proof/Machine/Chain.lean ====
section
/-! DEFINITION. The daisy-chain controller: it has no state of its own (10_state.md R36) and walks the devices in
`CHAIN_ORDER` (60_exceptions.md R274 to R277). -/

namespace Sys2Proof.Machine

/-- The walk of `chainRequest()` over the devices of a list: a device in service ends it, else the first that requests
is found (60_exceptions.md R275). -/
def chainWalk (s : State) : List Device → Option Device
  | [] => none
  | d :: ds => if s.isAccepted d then none else if s.isRequested d then some d else chainWalk s ds

/-- `chainRequest()`: the device the interrupt line speaks for (60_exceptions.md R275). -/
def State.chainRequest (s : State) : Option Device := chainWalk s s.wiring.chainOrder.devices

/-- The device `chainFinish()` releases: the first in chain order that is in service (60_exceptions.md R277). -/
def State.chainServed (s : State) : Option Device := s.wiring.chainOrder.devices.find? s.isAccepted

/-- The CTC's methods are called by a walk unless a device before it ends the walk (log 9). -/
def consultsCtc (ends : Device → Bool) : List Device → Bool
  | [] => false
  | .ctc :: _ => true
  | d :: ds => !ends d && consultsCtc ends ds

/-- Records that a walk of the chain has called the CTC (41_ctc.md R155; log 9). -/
def State.markWalk (s : State) (ends : Device → Bool) : State :=
  if consultsCtc ends s.wiring.chainOrder.devices then s.markCtc else s

/-- `chainRequest()` (60_exceptions.md R275). -/
def execChainRequest (s : State) : Host.Outcome State Fault Refusal :=
  .next ((s.markWalk fun d => s.isAccepted d || s.isRequested d).returning (.device s.chainRequest))

/-- `chainAccept()`: the device found accepts; with none the spec refuses (60_exceptions.md R276;
93_implementation_defined.md U2). -/
def execChainAccept (s : State) : Host.Outcome State Fault Refusal :=
  match s.chainRequest with
  | some d => acceptDevice d (s.markWalk fun d => s.isAccepted d || s.isRequested d)
  | none => .refused .acceptWithoutRequest

/-- `chainFinish()`: the first device in service finishes; with none nothing happens (60_exceptions.md R277). -/
def execChainFinish (s : State) : Host.Outcome State Fault Refusal :=
  let t := (s.markWalk s.isAccepted).returning .unit
  match s.chainServed with
  | some d => .next (finishDevice d t)
  | none => .next t

end Sys2Proof.Machine
end

