-- ==== Sys2Proof/Machine/Ctc.lean ====
section
/-! DEFINITION. The CTC: its byte writes, its counting and cascade, and the meaning of every CTC row of the table
(41_ctc.md). -/

namespace Sys2Proof.Machine

/-! ## Register writes -/

/-- The effect of a control word on its channel (41_ctc.md R141). -/
def CtcChannel.controlWord (c : CtcChannel) (w : CtcControl) : CtcChannel :=
  { c with
    interruptEnabled := w.interruptEnable
    timerMode := !w.counterMode
    prescaler256 := w.prescale256
    triggerEdgeHigh := w.risingEdge
    waitForTrigger := w.waitForTrigger
    expectTimeConstant := w.constantFollows
    running := c.running && !w.softwareReset
    pendingLoadValue := if w.softwareReset then none else c.pendingLoadValue
    counterInit := if w.softwareReset then none else c.counterInit
    interruptRequested := c.interruptRequested && w.interruptEnable
    interruptAccepted := c.interruptAccepted && w.interruptEnable }

/-- `setTimeConstant(i, b)` (41_ctc.md R143). -/
def CtcChannel.setTimeConstant (c : CtcChannel) (b : Byte) : CtcChannel :=
  { c with pendingLoadValue := some (timeConstantOf b), expectTimeConstant := false }

/-- A byte written to a channel, by either selector (41_ctc.md R140, R142, R144). -/
def ctcWrite (i : CtcIx) (b : Byte) (c : Ctc) : Ctc :=
  match decodeCtc (c.ch i).expectTimeConstant b with
  | .timeConstant t => c.setCh i ((c.ch i).setTimeConstant t)
  | .vector base _ => { c with vector := base ++ 0#3 }
  | .control w => c.setCh i ((c.ch i).controlWord w)

/-! ## Counting -/

/-- `zeroCrossing(i)`, with `cascade` the trigger of a channel (41_ctc.md R150). The reload of a channel that was never
loaded is reached by no operation (00_scope.md R11; log 10). -/
def zeroCrossing (cascade : CtcIx → Ctc → Ctc × List Event) (i : CtcIx) (c : Ctc) : Ctc × List Event :=
  let reloaded := c.setCh i { c.ch i with
    counter := (c.ch i).counterInit.getD (c.ch i).counter
    interruptRequested := (c.ch i).interruptRequested || (c.ch i).interruptEnabled }
  match (c.ch i).cascadeTo with
  | some j => ((cascade j reloaded).1, (cascade j reloaded).2 ++ [.zeroCrossing i])
  | none => (reloaded, [.zeroCrossing i])

/-- `decrement(i)` (41_ctc.md R149). -/
def decrement (cascade : CtcIx → Ctc → Ctc × List Event) (i : CtcIx) (c : Ctc) : Ctc × List Event :=
  if 1 < (c.ch i).counter then (c.setCh i { c.ch i with counter := (c.ch i).counter - 1 }, [])
  else zeroCrossing cascade i c

/-- What a qualifying edge does to a loaded channel before it counts: it starts a stopped one (41_ctc.md R151). -/
def CtcChannel.start (d : CtcChannel) : CtcChannel :=
  if d.running then d else { d with running := true, prescaler := 0 }

/-- `trigger(j)` (41_ctc.md R151), the number bounding the cascade below it: the wiring has no cycle, so a trigger
reaches at most three more channels (41_ctc.md R154; log 10). -/
def trigger : Nat → CtcIx → Ctc → Ctc × List Event
  | 0, _, c => (c, [])
  | n + 1, j, c =>
    if (c.ch j).counterInit = none then (c, [])
    else if (c.ch j).timerMode then (c.setCh j (c.ch j).start, [])
    else decrement (trigger n) j (c.setCh j (c.ch j).start)

/-- The bound of a cascade that begins at an edge from outside. -/
def cascadeDepth : Nat := 4

/-- The commit of a pending load; it uses the pulse up (41_ctc.md R147). -/
def CtcChannel.commit (c : CtcChannel) (v : Nat) : CtcChannel :=
  { c with
    pendingLoadValue := none
    counterInit := some v
    counter := if c.running then c.counter else v
    prescaler := if c.running then c.prescaler else 0
    running := c.running || !(c.timerMode && c.waitForTrigger) }

/-- `channelPulse(i)`: the commit, else the count (41_ctc.md R147, R148). -/
def channelPulse (i : CtcIx) (c : Ctc) : Ctc × List Event :=
  match (c.ch i).pendingLoadValue with
  | some v => (c.setCh i ((c.ch i).commit v), [])
  | none =>
    if (c.ch i).running && (c.ch i).timerMode then
      if (c.ch i).divisor ≤ (c.ch i).prescaler + 1 then
        decrement (trigger cascadeDepth) i (c.setCh i { c.ch i with prescaler := 0 })
      else (c.setCh i { c.ch i with prescaler := (c.ch i).prescaler + 1 }, [])
    else (c, [])

/-- One clock pulse: channels 0, 1, 2, 3 in that order (41_ctc.md R146). -/
def ctcPulse (c : Ctc) : Ctc × List Event :=
  andThen (channelPulse .c0) (andThen (channelPulse .c1) (andThen (channelPulse .c2) (channelPulse .c3))) c

/-- `externalEdge(i, rising)` (41_ctc.md R152). -/
def ctcEdge (i : CtcIx) (rising : Bool) (c : Ctc) : Ctc × List Event :=
  if rising = (c.ch i).triggerEdgeHigh then trigger cascadeDepth i c else (c, [])

/-! ## Cascade wiring -/

/-- Following `cascadeTo` from channel `i`, at most `n` links, meets channel `j`. -/
def Ctc.leadsTo (c : Ctc) (j : CtcIx) : Nat → CtcIx → Bool
  | 0, i => decide (i = j)
  | n + 1, i =>
    decide (i = j) ||
      match (c.ch i).cascadeTo with
      | some k => c.leadsTo j n k
      | none => false

/-- The links `connectCascade` allows: no self-link, each end free, no cycle (41_ctc.md R155). -/
def Ctc.linkAllowed (c : Ctc) (src dst : CtcIx) : Bool :=
  decide (src ≠ dst) && decide ((c.ch src).cascadeTo = none) && decide ((c.ch dst).cascadeFrom = none) &&
    !c.leadsTo src 4 dst

/-- The two ends of a new link (41_ctc.md R155). -/
def Ctc.link (c : Ctc) (src dst : CtcIx) : Ctc :=
  let c1 := c.setCh src { c.ch src with cascadeTo := some dst }
  c1.setCh dst { c1.ch dst with cascadeFrom := some src }

/-! ## Reset -/

/-- A channel's reset; the wiring is kept (70_reset_and_hazards.md R302). -/
def CtcChannel.resetChannel (c : CtcChannel) (powerOn : Bool) : CtcChannel :=
  { CtcChannel.powerOn with
    counter := if powerOn then 0 else c.counter
    cascadeFrom := c.cascadeFrom
    cascadeTo := c.cascadeTo }

/-- `ctc.reset(powerOn)` (70_reset_and_hazards.md R302). -/
def Ctc.resetDevice (c : Ctc) (powerOn : Bool) : Ctc :=
  { vector := if powerOn then 0x00 else c.vector
    ch0 := c.ch0.resetChannel powerOn
    ch1 := c.ch1.resetChannel powerOn
    ch2 := c.ch2.resetChannel powerOn
    ch3 := c.ch3.resetChannel powerOn }

/-! ## The operations on the state -/

/-- A byte written to a CTC channel. -/
def State.ctcWriteByte (s : State) (i : CtcIx) (b : Byte) : State :=
  ((s.setCtc (ctcWrite i b s.ctc)).markCtc).returning .unit

/-- A CTC operation that changes the device and emits events. -/
def State.ctcRun (s : State) (r : Ctc × List Event) : State :=
  (((s.setCtc r.1).emit r.2).markCtc).returning .unit

/-- A CTC operation that only returns a value. -/
def State.ctcReply (s : State) (r : Reply) : State := s.markCtc.returning r

/-- The counter as the CPU reads it: its low 8 bits (41_ctc.md R145). -/
def Ctc.readCounter (c : Ctc) (i : CtcIx) : Byte := BitVec.ofNat 8 (c.ch i).counter

/-! ## Meanings -/

/-- `CTC.TC`: the byte written to the channel (41_ctc.md R143; out of its context R140, R159; log 3). -/
def execCtcTc (i : CtcIx) (_sel : Selector) (t : Byte) (s : State) : Host.Outcome State Fault Refusal :=
  .next (s.ctcWriteByte i (encodeCtc (.timeConstant t)))

/-- `CTC.VEC`: the byte written to the channel (41_ctc.md R142; out of its context R140, R159; log 3). -/
def execCtcVec (i : CtcIx) (_sel : Selector) (base : BitVec 5) (x : BitVec 2) (s : State) :
    Host.Outcome State Fault Refusal :=
  .next (s.ctcWriteByte i (encodeCtc (.vector base x)))

/-- `CTC.CW`: the byte written to the channel (41_ctc.md R141; out of its context R140, R159; log 3). -/
def execCtcCw (i : CtcIx) (_sel : Selector) (w : CtcControl) (s : State) : Host.Outcome State Fault Refusal :=
  .next (s.ctcWriteByte i (encodeCtc (.control w)))

/-- `CTC.VECTOR`: the acceptance that returns the byte (30_encoding.md R104, 41_ctc.md R157; log 4). -/
def execCtcVector (s : State) : Host.Outcome State Fault Refusal := acceptDevice .ctc s.markCtc

/-- `ctc.writeControl(i, b)` (41_ctc.md R140). -/
def execCtcWriteControl (i : CtcIx) (b : Byte) (s : State) : Host.Outcome State Fault Refusal :=
  .next (s.ctcWriteByte i b)

/-- `ctc.writeData(i, b)` (41_ctc.md R144). -/
def execCtcWriteData (i : CtcIx) (b : Byte) (s : State) : Host.Outcome State Fault Refusal :=
  .next (s.ctcWriteByte i b)

/-- `ctc.readData(i)` (41_ctc.md R145). -/
def execCtcReadData (i : CtcIx) (s : State) : Host.Outcome State Fault Refusal :=
  .next (s.ctcReply (.byte (s.ctc.readCounter i)))

/-- `ctc.readControl(i)` (41_ctc.md R145). -/
def execCtcReadControl (i : CtcIx) (s : State) : Host.Outcome State Fault Refusal :=
  .next (s.ctcReply (.byte (s.ctc.readCounter i)))

/-- `ctc.onClockPulses(n)` (41_ctc.md R146). -/
def execCtcOnClockPulses (n : BitVec 32) (s : State) : Host.Outcome State Fault Refusal :=
  .next (s.ctcRun (repeatPulse ctcPulse n.toNat s.ctc))

/-- `ctc.externalEdge(i, rising)` (41_ctc.md R152). -/
def execCtcExternalEdge (i : CtcIx) (rising : Bool) (s : State) : Host.Outcome State Fault Refusal :=
  .next (s.ctcRun (ctcEdge i rising s.ctc))

/-- `ctc.externalPulses(i, n)` (41_ctc.md R153). -/
def execCtcExternalPulses (i : CtcIx) (n : Nat) (s : State) : Host.Outcome State Fault Refusal :=
  .next (s.ctcRun (repeatPulse (trigger cascadeDepth i) n s.ctc))

/-- `ctc.connectCascade(from, to)`; the links it does not allow, and any call after another CTC operation, are refused
(41_ctc.md R155; 93_implementation_defined.md U3). -/
def execCtcConnectCascade (src dst : CtcIx) (s : State) : Host.Outcome State Fault Refusal :=
  if s.ctcOperated || !s.ctc.linkAllowed src dst then .refused .badCascade
  else .next ((s.setCtc (s.ctc.link src dst)).returning .unit)

/-- `ctc.isRequested()` (41_ctc.md R156). -/
def execCtcIsRequested (s : State) : Host.Outcome State Fault Refusal :=
  .next (s.ctcReply (.bool (s.isRequested .ctc)))

/-- `ctc.isAccepted()` (41_ctc.md R156). -/
def execCtcIsAccepted (s : State) : Host.Outcome State Fault Refusal :=
  .next (s.ctcReply (.bool (s.isAccepted .ctc)))

/-- `ctc.accept()` (41_ctc.md R157). -/
def execCtcAccept (s : State) : Host.Outcome State Fault Refusal := acceptDevice .ctc s.markCtc

/-- `ctc.finish()` (41_ctc.md R158). -/
def execCtcFinish (s : State) : Host.Outcome State Fault Refusal :=
  .next ((finishDevice .ctc s).ctcReply .unit)

/-- `ctc.statusSnapshot()` (41_ctc.md R160). -/
def execCtcStatusSnapshot (s : State) : Host.Outcome State Fault Refusal := .next (s.ctcReply (.ctcReport s.ctc))

/-- `ctc.reset(powerOn)` (70_reset_and_hazards.md R302); it emits no event (R306). -/
def execCtcReset (powerOn : Bool) (s : State) : Host.Outcome State Fault Refusal :=
  .next (s.ctcRun (s.ctc.resetDevice powerOn, []))

end Sys2Proof.Machine
end

