-- ==== Sys2Proof/Machine/Pio.lean ====
section
/-! DEFINITION. The PIO: its control writes, its data paths on the CPU's and the external side, and the meaning of every
PIO row of the table (42_pio.md). -/

namespace Sys2Proof.Machine

/-- `pio.port[p]` changed by a function. -/
def Pio.modPort (d : Pio) (p : Side) (f : PioPort → PioPort) : Pio := d.setPort p (f (d.port p))

/-- Port A runs `ByteInOut`, so that port B's handshake serves A's input direction (42_pio.md R185). -/
def Pio.aBidir (d : Pio) : Bool := d.portA.mode == .byteInOut

/-! ## Control writes -/

/-- A mode word for mode `m` written to port `p`; `none` where the spec refuses it (42_pio.md R172, R194). -/
def Pio.writeMode (d : Pio) (p : Side) (m : PioMode) : Option Pio :=
  if p = .b ∧ m = .byteInOut then none
  else
    let d1 := d.modPort p fun q =>
      { q with
        mode := m
        ready := q.ready && (decide (p = .b) && d.aBidir)
        nextControl := if m = .bitInOut then .directionMask else .command }
    let d2 := if p = .a ∧ (d.aBidir = true ∨ m = .byteInOut) then d1.modPort .b fun q => { q with ready := false } else d1
    some (d2.modPort p PioPort.recomputeCondition)

/-- The effect of an interrupt control word on its port (42_pio.md R174). -/
def PioPort.writeCondition (q : PioPort) (w : PioCondition) : PioPort :=
  PioPort.recomputeCondition
    { q with
      intEnabled := w.interruptEnable
      bitsAndCombined := w.andCombined
      fireOnHigh := w.activeHigh
      nextControl := if w.maskFollows ∧ q.mode = .bitInOut then .interruptMask else q.nextControl }

/-- A byte written to the control selector of port `p`: the device and the events; `none` where the spec refuses
(42_pio.md R170 to R177). -/
def pioWrite (p : Side) (b : Byte) (d : Pio) : Option (Pio × List Event) :=
  let d := { d with resetState := false }
  match decodePio (d.port p).nextControl b with
  | .direction m =>
    some (d.modPort p fun q => PioPort.recomputeCondition { q with inputDirectionMask := m, nextControl := .command }, [])
  | .interruptMask m =>
    some (d.modPort p fun q => PioPort.recomputeCondition { q with bitMask := m, nextControl := .command }, [])
  | .vector v => some (d.modPort p fun q => { q with vector := v ++ 0#1 }, [])
  | .mode m _ => (d.writeMode p m).map fun d' => (d', [])
  | .condition w =>
    some (d.modPort p fun q => q.writeCondition w, enableEvents p (d.port p).intEnabled w.interruptEnable)
  | .enable e _ => some (d.modPort p fun q => { q with intEnabled := e }, enableEvents p (d.port p).intEnabled e)
  | .reserved _ => some (d, [])
  | .reservedB _ => some (d, [])

/-! ## CPU data access -/

/-- `pio.writeData(p, v)` (42_pio.md R179). DEDUCED (log 22): a write to port B in `ByteOut` raises port B's `ready` also
while port A runs `ByteInOut`, as R179's lines for any port say; 10_state.md R26 and 42_pio.md R185 call port B's own
handshake dead then and do not name the data write. -/
def pioWriteData (p : Side) (v : Byte) (d : Pio) : Pio × List Event :=
  let d1 := d.modPort p fun q => { q with outputRegister := v }
  if d.resetState then (d1, [])
  else
    match (d.port p).mode with
    | .byteOut => (d1.modPort p fun q => { q with ready := true }, [.outputAvailable p v])
    | .byteInOut => (d1.modPort p fun q => { q with ready := true }, [.outputAvailable p v])
    | .bitInOut => (d1.modPort p PioPort.checkBitIO, [.outputChanged p v])
    | .byteIn => (d1, [])

/-- The byte `pio.readData(p)` returns (42_pio.md R180). -/
def pioReadValue (p : Side) (d : Pio) : Byte :=
  match (d.port p).mode with
  | .byteOut => (d.port p).outputRegister
  | .byteIn => (d.port p).inputRegister
  | .byteInOut => d.portA.inputRegister
  | .bitInOut => (d.port p).lines

/-- What `pio.readData(p)` does to the device (42_pio.md R180): the read completes the input handshake. -/
def pioReadData (p : Side) (d : Pio) : Pio × List Event :=
  match (d.port p).mode with
  | .byteOut => (d, [])
  | .byteIn =>
    let d1 := d.modPort p fun q => { q with valueMask := 0x00 }
    if d.resetState || (decide (p = .b) && d.aBidir) then (d1, [])
    else (d1.modPort p fun q => { q with ready := false }, [.readyForInput p])
  | .byteInOut =>
    let d1 := d.modPort .a fun q => { q with valueMask := 0x00 }
    if d.resetState then (d1, [])
    else (d1.modPort .b fun q => { q with ready := false }, [.readyForInput .a])
  | .bitInOut => (d.modPort p fun q => { q with valueMask := 0x00 }, [])

/-! ## The external side -/

/-- `pio.putInValue(p, v, m, strobe)` (42_pio.md R182, R184). -/
def pioPut (p : Side) (v m : Byte) (strobe : Bool) (d : Pio) : Pio :=
  let d1 := d.modPort p fun q =>
    { q with inputRegister := (q.inputRegister &&& ~~~m) ||| (v &&& m), valueMask := q.valueMask ||| m }
  if d.resetState then d1
  else
    match (d.port p).mode with
    | .byteIn =>
      if p = .b ∧ d.aBidir = true then d1
      else d1.modPort p fun q => if strobe then { q with ready := true }.requestInterrupt else { q with ready := true }
    | .byteInOut =>
      (d1.modPort .b fun q => { q with ready := true }).modPort .a fun q => if strobe then q.requestInterrupt else q
    | .bitInOut => d1.modPort p PioPort.checkBitIO
    | .byteOut => d1

/-- The byte `pio.fetchOutValue(p, strobe)` returns (42_pio.md R183). -/
def pioFetchValue (p : Side) (d : Pio) : Byte :=
  if d.resetState then 0xFF
  else
    match (d.port p).mode with
    | .byteOut => (d.port p).outputRegister
    | .byteInOut => d.portA.outputRegister
    | .bitInOut => (d.port p).outputRegister
    | .byteIn => 0xFF

/-- What `pio.fetchOutValue(p, strobe)` does to the device (42_pio.md R183, R184). -/
def pioFetch (p : Side) (strobe : Bool) (d : Pio) : Pio :=
  if d.resetState || !strobe then d
  else
    match (d.port p).mode with
    | .byteOut =>
      if p = .b ∧ d.aBidir = true then d else d.modPort p fun q => { q with ready := false }.requestInterrupt
    | .byteInOut => d.modPort .a fun q => { q with ready := false }.requestInterrupt
    | .bitInOut => d
    | .byteIn => d

/-! ## Reset -/

/-- A port's reset (70_reset_and_hazards.md R303). -/
def PioPort.resetPort (q : PioPort) (powerOn : Bool) : PioPort :=
  if powerOn then PioPort.powerOn
  else
    { PioPort.powerOn with
      outputRegister := q.outputRegister, inputRegister := q.inputRegister, vector := q.vector }

/-- `pio.reset(powerOn)` (70_reset_and_hazards.md R303). -/
def Pio.resetDevice (d : Pio) (powerOn : Bool) : Pio :=
  { resetState := true, portA := d.portA.resetPort powerOn, portB := d.portB.resetPort powerOn }

/-! ## The operations on the state -/

/-- A byte written to a PIO control selector (42_pio.md R170); a mode word selecting `ByteInOut` on port B is refused
(42_pio.md R194; 93_implementation_defined.md U4). -/
def State.pioWriteByte (s : State) (p : Side) (b : Byte) : Host.Outcome State Fault Refusal :=
  match pioWrite p b s.pio with
  | some r => .next (((s.setPio r.1).emit r.2).returning .unit)
  | none => .refused .portBBidirectional

/-- A PIO operation that changes the device, emits events and returns a value. -/
def State.pioRun (s : State) (r : Pio × List Event) (v : Reply) : State := ((s.setPio r.1).emit r.2).returning v

/-! ## Meanings -/

/-- `PIO.DIR`: the byte written to the port (42_pio.md R173; out of its context R170; log 3). -/
def execPioDir (p : Side) (m : Byte) (s : State) : Host.Outcome State Fault Refusal :=
  s.pioWriteByte p (encodePio (.direction m))

/-- `PIO.IMASK`: the byte written to the port (42_pio.md R175; out of its context R170; log 3). -/
def execPioImask (p : Side) (m : Byte) (s : State) : Host.Outcome State Fault Refusal :=
  s.pioWriteByte p (encodePio (.interruptMask m))

/-- `PIO.VEC`: the byte written to the port (42_pio.md R171; out of its context R170; log 3). -/
def execPioVec (p : Side) (v : BitVec 7) (s : State) : Host.Outcome State Fault Refusal :=
  s.pioWriteByte p (encodePio (.vector v))

/-- `PIO.MODE`: the byte written to the port (42_pio.md R172, R194; out of its context R170; log 3). -/
def execPioMode (p : Side) (m : PioMode) (x : BitVec 2) (s : State) : Host.Outcome State Fault Refusal :=
  s.pioWriteByte p (encodePio (.mode m x))

/-- `PIO.ICW`: the byte written to the port (42_pio.md R174; out of its context R170; log 3). -/
def execPioIcw (p : Side) (w : PioCondition) (s : State) : Host.Outcome State Fault Refusal :=
  s.pioWriteByte p (encodePio (.condition w))

/-- `PIO.IEW`: the byte written to the port (42_pio.md R176; out of its context R170; log 3). -/
def execPioIew (p : Side) (e : Bool) (x : BitVec 3) (s : State) : Host.Outcome State Fault Refusal :=
  s.pioWriteByte p (encodePio (.enable e x))

/-- `PIO.RSVD`: the byte written to the port (42_pio.md R177; out of its context R170; log 3). -/
def execPioRsvd (p : Side) (x : BitVec 6) (s : State) : Host.Outcome State Fault Refusal :=
  s.pioWriteByte p (encodePio (.reserved x))

/-- `PIO.RSVD.B`: the byte written to the port (42_pio.md R177; out of its context R170; log 3). -/
def execPioRsvdB (p : Side) (x : BitVec 4) (s : State) : Host.Outcome State Fault Refusal :=
  s.pioWriteByte p (encodePio (.reservedB x))

/-- `PIO.VECTOR`: the acceptance that returns the byte (30_encoding.md R104, 42_pio.md R190; log 4). -/
def execPioVector (s : State) : Host.Outcome State Fault Refusal := acceptDevice .pio s

/-- `pio.writeControl(p, b)` (42_pio.md R170). -/
def execPioWriteControl (p : Side) (b : Byte) (s : State) : Host.Outcome State Fault Refusal := s.pioWriteByte p b

/-- `pio.writeData(p, v)` (42_pio.md R179). -/
def execPioWriteData (p : Side) (v : Byte) (s : State) : Host.Outcome State Fault Refusal :=
  .next (s.pioRun (pioWriteData p v s.pio) .unit)

/-- `pio.readData(p)` (42_pio.md R180). -/
def execPioReadData (p : Side) (s : State) : Host.Outcome State Fault Refusal :=
  .next (s.pioRun (pioReadData p s.pio) (.byte (pioReadValue p s.pio)))

/-- `pio.readControl(p)`: a free byte, nothing else (42_pio.md R181; 93_implementation_defined.md U5; log 6). -/
def execPioReadControl (_p : Side) (s : State) : Host.Outcome State Fault Refusal := .next s.returnDraw

/-- `pio.putInValue(p, v, m, strobe)` (42_pio.md R182). -/
def execPioPutInValue (p : Side) (v m : Byte) (strobe : Bool) (s : State) : Host.Outcome State Fault Refusal :=
  .next (s.pioRun (pioPut p v m strobe s.pio, []) .unit)

/-- `pio.fetchOutValue(p, strobe)` (42_pio.md R183). -/
def execPioFetchOutValue (p : Side) (strobe : Bool) (s : State) : Host.Outcome State Fault Refusal :=
  .next (s.pioRun (pioFetch p strobe s.pio, []) (.byte (pioFetchValue p s.pio)))

/-- `pio.onClockPulses(n)`: the PIO has no counter and no shifter (42_pio.md R193). -/
def execPioOnClockPulses (_n : BitVec 32) (s : State) : Host.Outcome State Fault Refusal := .next (s.returning .unit)

/-- `pio.isRequested()` (42_pio.md R189). -/
def execPioIsRequested (s : State) : Host.Outcome State Fault Refusal :=
  .next (s.returning (.bool (s.isRequested .pio)))

/-- `pio.isAccepted()` (42_pio.md R189). -/
def execPioIsAccepted (s : State) : Host.Outcome State Fault Refusal :=
  .next (s.returning (.bool (s.isAccepted .pio)))

/-- `pio.accept()` (42_pio.md R190). -/
def execPioAccept (s : State) : Host.Outcome State Fault Refusal := acceptDevice .pio s

/-- `pio.finish()` (42_pio.md R191). -/
def execPioFinish (s : State) : Host.Outcome State Fault Refusal := .next ((finishDevice .pio s).returning .unit)

/-- `pio.statusSnapshot()` (42_pio.md R193). -/
def execPioStatusSnapshot (s : State) : Host.Outcome State Fault Refusal := .next (s.returning (.pioReport s.pio))

/-- `pio.reset(powerOn)` (70_reset_and_hazards.md R303); it emits no event (R306). -/
def execPioReset (powerOn : Bool) (s : State) : Host.Outcome State Fault Refusal :=
  .next (s.pioRun (s.pio.resetDevice powerOn, []) .unit)

end Sys2Proof.Machine
end

