-- ==== Sys2Proof/Machine/Sio.lean ====
section
/-! DEFINITION. The SIO: its control writes and commands, its receiver, transmitter and modem inputs, and the meaning of
every SIO row of the table (43_sio.md). -/

namespace Sys2Proof.Machine

/-- `sio.ch[c]` changed by a function. -/
def State.modSio (s : State) (c : Side) (f : SioChannel → SioChannel) : State := s.setSio (s.sio.setCh c (f (s.sio.ch c)))

/-! ## Reset -/

/-- A channel's reset: all but `wr[2]`, the buffers, the FIFO entries and the modem inputs, which only power-on clears
(70_reset_and_hazards.md R304). -/
def SioChannel.resetChannel (c : SioChannel) (powerOn : Bool) : SioChannel :=
  if powerOn then SioChannel.powerOn
  else
    { SioChannel.powerOn with
      wr := { WriteRegs.zero with wr2 := c.wr.wr2 }
      txBuffer := c.txBuffer
      rxShiftBuffer := c.rxShiftBuffer
      receiveFifo := c.receiveFifo
      cts := c.cts
      dcd := c.dcd }

/-- `sio.reset(powerOn)` (70_reset_and_hazards.md R304). -/
def Sio.resetDevice (d : Sio) (powerOn : Bool) : Sio :=
  { chA := d.chA.resetChannel powerOn, chB := d.chB.resetChannel powerOn }

/-! ## Control writes -/

/-- The commands of `wr[0]` (43_sio.md R211 to R218). -/
def sioCommand (c : Side) (cmd : SioCommand) (s : State) : State :=
  match cmd with
  | .null => s
  | .cmd1None => s
  | .resetExtStatus => s.modSio c fun q => { q with extRequested := false }
  | .channelReset => s.modSio c fun q => q.resetChannel false
  | .enableFirstChar => s.modSio c fun q => { q with rxFirstCharArmed := true }
  | .resetTxInt => s.modSio c fun q => { q with txRequested := false }
  | .errorReset => s.modSio c fun q => { q with rxOverrunLatch := false }
  | .reti =>
    match c with
    | .a => finishDevice .sio s
    | .b => s

/-- A byte stored in the register `ptr`, 1 to 7: the pointer goes back to 0, and selecting the first-character mode in
`wr[1]` arms it (43_sio.md R210, R219). -/
def SioChannel.storeRegister (q : SioChannel) (ptr : BitVec 3) (b : Byte) : SioChannel :=
  { q with
    wr := (q.wr.set ptr b).clearPointer
    rxFirstCharArmed := q.rxFirstCharArmed || (decide (ptr = 1) && decide ((decodeWr1 b).rxMode = 1)) }

/-- A byte written to the control selector of channel `c` (43_sio.md R210). -/
def State.sioWriteByte (s : State) (c : Side) (b : Byte) : State :=
  match decodeSio (s.sio.ch c).wr.pointer b with
  | .wr0 cmd _ _ => sioCommand c cmd (s.modSio c fun q => { q with wr := { q.wr with wr0 := b } })
  | _ => s.modSio c fun q => q.storeRegister q.wr.pointer b

/-! ## Receiver -/

/-- `putToReceiver(c, v)` is taken: the receiver is valid and idle (43_sio.md R228). -/
def SioChannel.takesByte (q : SioChannel) : Bool := q.rxValid && decide (q.rxBitsRemaining = 0)

/-- `putToReceiver(c, v)` (43_sio.md R228). -/
def SioChannel.putByte (q : SioChannel) (v : Byte) : SioChannel :=
  if q.takesByte then { q with rxShiftBuffer := v, rxBitsRemaining := q.rxFrame, rxDivAcc := 0 } else q

/-- `receiveComplete(c)`: the masked byte enters the FIFO, or replaces its last entry (43_sio.md R230). -/
def SioChannel.receiveComplete (q : SioChannel) : SioChannel :=
  let v := maskToWidth q.rxDataBits q.rxShiftBuffer
  SioChannel.receiveInterrupt
    (if q.receiveFifoLen < Config.fifoDepth then
      { q with
        receiveFifo := q.receiveFifo.set q.receiveFifoLen ⟨v, false⟩
        receiveFifoLen := q.receiveFifoLen + 1 }
    else { q with receiveFifo := q.receiveFifo.set 2 ⟨v, true⟩, rxOverrunLatch := true })

/-- One pulse of the receive clock (43_sio.md R229). -/
def SioChannel.rxPulse (q : SioChannel) : SioChannel :=
  if q.rxBitsRemaining = 0 then q
  else if q.rxDivAcc + 1 < q.clockDiv then { q with rxDivAcc := q.rxDivAcc + 1 }
  else
    let q1 := { q with rxDivAcc := 0, rxBitsRemaining := q.rxBitsRemaining - 1 }
    if q1.rxBitsRemaining = 0 then q1.receiveComplete else q1

/-! ## Transmitter -/

/-- `transmitComplete(c)` without its event (43_sio.md R233). -/
def SioChannel.transmitComplete (q : SioChannel) : SioChannel :=
  { q with txBufferEmpty := true, txRequested := q.txRequested || (decodeWr1 q.wr.wr1).txIntEnable }

/-- A frame starts on the pulse that finds none started (43_sio.md R232). -/
def SioChannel.startFrame (q : SioChannel) : SioChannel :=
  if q.txBitsRemaining = 0 then { q with txBitsRemaining := q.txFrame, txDivAcc := 0 } else q

/-- One pulse of the transmit clock of channel `c` (43_sio.md R232). -/
def SioChannel.txPulse (c : Side) (q : SioChannel) : SioChannel × List Event :=
  if q.txBufferEmpty || !q.txValid then (q, [])
  else
    let q1 := q.startFrame
    if q1.txDivAcc + 1 < q1.clockDiv then ({ q1 with txDivAcc := q1.txDivAcc + 1 }, [])
    else
      let q2 := { q1 with txDivAcc := 0, txBitsRemaining := q1.txBitsRemaining - 1 }
      if q2.txBitsRemaining = 0 then
        (q2.transmitComplete, [.byteTransmitted c (maskToWidth q2.txDataBits q2.txBuffer)])
      else (q2, [])

/-! ## The device's clock -/

/-- One pulse of the receive clock of channel `c` of the device. -/
def sioRxPulse (c : Side) (d : Sio) : Sio × List Event := (d.setCh c (d.ch c).rxPulse, [])

/-- One pulse of the transmit clock of channel `c` of the device. -/
def sioTxPulse (c : Side) (d : Sio) : Sio × List Event :=
  (d.setCh c ((d.ch c).txPulse c).1, ((d.ch c).txPulse c).2)

/-- A pulse step taken only by a shifter on the system clock (43_sio.md R236). -/
def onSystemClock (src : ClockSource) (f : Sio → Sio × List Event) (d : Sio) : Sio × List Event :=
  match src with
  | .systemClock => f d
  | .external => (d, [])

/-- One system clock pulse: A receiver, A sender, B receiver, B sender (43_sio.md R236, 40_contracts.md R121). -/
def sioPulse (w : Wiring) : Sio → Sio × List Event :=
  andThen (onSystemClock w.clocksA.rx (sioRxPulse .a))
    (andThen (onSystemClock w.clocksA.tx (sioTxPulse .a))
      (andThen (onSystemClock w.clocksB.rx (sioRxPulse .b)) (onSystemClock w.clocksB.tx (sioTxPulse .b))))

/-! ## The operations on the state -/

/-- An SIO operation that changes the device and emits events. -/
def State.sioRun (s : State) (r : Sio × List Event) : State := ((s.setSio r.1).emit r.2).returning .unit

/-- `sio.readControl(c)`: the pointer goes back to 0; a register above 1 returns a free byte (43_sio.md R220;
93_implementation_defined.md U6; log 6). -/
def State.sioReadControl (s : State) (c : Side) : State :=
  let t := s.modSio c fun q => { q with wr := q.wr.clearPointer }
  if (s.sio.ch c).wr.pointer = 0 then t.returning (.byte (s.rr0 c))
  else if (s.sio.ch c).wr.pointer = 1 then t.returning (.byte (s.sio.ch c).rr1)
  else t.returnDraw

/-- `sio.readData(c)`: the oldest entry leaves the FIFO; an empty FIFO returns a free byte (43_sio.md R224;
93_implementation_defined.md U7; log 6). -/
def State.sioReadData (s : State) (c : Side) : State :=
  if (s.sio.ch c).receiveFifoLen = 0 then s.returnDraw
  else
    (s.modSio c fun q => { q with receiveFifo := q.receiveFifo.shift, receiveFifoLen := q.receiveFifoLen - 1 }).returning
      (.byte (s.sio.ch c).receiveFifo.e0.value)

/-! ## Meanings -/

/-- `SIO.WR0.null`: the byte written to the channel (43_sio.md R211; out of its context R210; log 3). -/
def execSioWr0Null (c : Side) (crc : BitVec 2) (ptr : BitVec 3) (s : State) : Host.Outcome State Fault Refusal :=
  .next ((s.sioWriteByte c (encodeWr0 .null crc ptr)).returning .unit)

/-- `SIO.WR0.cmd1_none`: the byte written to the channel (43_sio.md R212; out of its context R210; log 3). -/
def execSioWr0Cmd1None (c : Side) (crc : BitVec 2) (ptr : BitVec 3) (s : State) : Host.Outcome State Fault Refusal :=
  .next ((s.sioWriteByte c (encodeWr0 .cmd1None crc ptr)).returning .unit)

/-- `SIO.WR0.reset_ext_status`: the byte written to the channel (43_sio.md R213; out of its context R210; log 3). -/
def execSioWr0ResetExtStatus (c : Side) (crc : BitVec 2) (ptr : BitVec 3) (s : State) :
    Host.Outcome State Fault Refusal :=
  .next ((s.sioWriteByte c (encodeWr0 .resetExtStatus crc ptr)).returning .unit)

/-- `SIO.WR0.channel_reset`: the byte written to the channel (43_sio.md R214; out of its context R210; log 3). -/
def execSioWr0ChannelReset (c : Side) (crc : BitVec 2) (ptr : BitVec 3) (s : State) :
    Host.Outcome State Fault Refusal :=
  .next ((s.sioWriteByte c (encodeWr0 .channelReset crc ptr)).returning .unit)

/-- `SIO.WR0.enable_first_char`: the byte written to the channel (43_sio.md R215; out of its context R210; log 3). -/
def execSioWr0EnableFirstChar (c : Side) (crc : BitVec 2) (ptr : BitVec 3) (s : State) :
    Host.Outcome State Fault Refusal :=
  .next ((s.sioWriteByte c (encodeWr0 .enableFirstChar crc ptr)).returning .unit)

/-- `SIO.WR0.reset_tx_int`: the byte written to the channel (43_sio.md R216; out of its context R210; log 3). -/
def execSioWr0ResetTxInt (c : Side) (crc : BitVec 2) (ptr : BitVec 3) (s : State) : Host.Outcome State Fault Refusal :=
  .next ((s.sioWriteByte c (encodeWr0 .resetTxInt crc ptr)).returning .unit)

/-- `SIO.WR0.error_reset`: the byte written to the channel (43_sio.md R217; out of its context R210; log 3). -/
def execSioWr0ErrorReset (c : Side) (crc : BitVec 2) (ptr : BitVec 3) (s : State) : Host.Outcome State Fault Refusal :=
  .next ((s.sioWriteByte c (encodeWr0 .errorReset crc ptr)).returning .unit)

/-- `SIO.WR0.reti`: the byte written to the channel (43_sio.md R218; out of its context R210; log 3). -/
def execSioWr0Reti (c : Side) (crc : BitVec 2) (ptr : BitVec 3) (s : State) : Host.Outcome State Fault Refusal :=
  .next ((s.sioWriteByte c (encodeWr0 .reti crc ptr)).returning .unit)

/-- `SIO.WR1`: the byte written to the channel (30_encoding.md R95, 43_sio.md R219; out of its context R210; log 3). -/
def execSioWr1 (c : Side) (w : Wr1) (s : State) : Host.Outcome State Fault Refusal :=
  .next ((s.sioWriteByte c (encodeSio (.wr1 w))).returning .unit)

/-- `SIO.WR2`: the byte written to the channel (30_encoding.md R96, 43_sio.md R219; out of its context R210; log 3). -/
def execSioWr2 (c : Side) (v : Byte) (s : State) : Host.Outcome State Fault Refusal :=
  .next ((s.sioWriteByte c (encodeSio (.wr2 v))).returning .unit)

/-- `SIO.WR3`: the byte written to the channel (30_encoding.md R97, 43_sio.md R219; out of its context R210; log 3). -/
def execSioWr3 (c : Side) (w : Wr3) (s : State) : Host.Outcome State Fault Refusal :=
  .next ((s.sioWriteByte c (encodeSio (.wr3 w))).returning .unit)

/-- `SIO.WR4`: the byte written to the channel (30_encoding.md R98, 43_sio.md R219; out of its context R210; log 3). -/
def execSioWr4 (c : Side) (w : Wr4) (s : State) : Host.Outcome State Fault Refusal :=
  .next ((s.sioWriteByte c (encodeSio (.wr4 w))).returning .unit)

/-- `SIO.WR5`: the byte written to the channel (30_encoding.md R99, 43_sio.md R219; out of its context R210; log 3). -/
def execSioWr5 (c : Side) (w : Wr5) (s : State) : Host.Outcome State Fault Refusal :=
  .next ((s.sioWriteByte c (encodeSio (.wr5 w))).returning .unit)

/-- `SIO.WR6`: the byte written to the channel (30_encoding.md R100, 43_sio.md R219; out of its context R210; log 3). -/
def execSioWr6 (c : Side) (v : Byte) (s : State) : Host.Outcome State Fault Refusal :=
  .next ((s.sioWriteByte c (encodeSio (.wr6 v))).returning .unit)

/-- `SIO.WR7`: the byte written to the channel (30_encoding.md R100, 43_sio.md R219; out of its context R210; log 3). -/
def execSioWr7 (c : Side) (v : Byte) (s : State) : Host.Outcome State Fault Refusal :=
  .next ((s.sioWriteByte c (encodeSio (.wr7 v))).returning .unit)

/-- `SIO.RR0`: the control read (30_encoding.md R101, 43_sio.md R220, R221; log 4). -/
def execSioRr0 (c : Side) (s : State) : Host.Outcome State Fault Refusal := .next (s.sioReadControl c)

/-- `SIO.RR1`: the control read (30_encoding.md R102, 43_sio.md R220, R222; log 4). -/
def execSioRr1 (c : Side) (s : State) : Host.Outcome State Fault Refusal := .next (s.sioReadControl c)

/-- `SIO.VECTOR`: the acceptance that returns the byte (30_encoding.md R104, 43_sio.md R239; log 4). -/
def execSioVector (s : State) : Host.Outcome State Fault Refusal := acceptDevice .sio s

/-- `sio.writeControl(c, b)` (43_sio.md R210). -/
def execSioWriteControl (c : Side) (b : Byte) (s : State) : Host.Outcome State Fault Refusal :=
  .next ((s.sioWriteByte c b).returning .unit)

/-- `sio.readControl(c)` (43_sio.md R220). -/
def execSioReadControl (c : Side) (s : State) : Host.Outcome State Fault Refusal := .next (s.sioReadControl c)

/-- `sio.writeData(c, v)` (43_sio.md R223). -/
def execSioWriteData (c : Side) (v : Byte) (s : State) : Host.Outcome State Fault Refusal :=
  .next ((s.modSio c fun q => { q with txBuffer := v, txBufferEmpty := false }).returning .unit)

/-- `sio.readData(c)` (43_sio.md R224). -/
def execSioReadData (c : Side) (s : State) : Host.Outcome State Fault Refusal := .next (s.sioReadData c)

/-- `sio.available(c)` (43_sio.md R225). -/
def execSioAvailable (c : Side) (s : State) : Host.Outcome State Fault Refusal :=
  .next (s.returning (.count (s.sio.ch c).receiveFifoLen))

/-- `sio.putToReceiver(c, v)` (43_sio.md R228). -/
def execSioPutToReceiver (c : Side) (v : Byte) (s : State) : Host.Outcome State Fault Refusal :=
  .next ((s.modSio c fun q => q.putByte v).returning (.bool (s.sio.ch c).takesByte))

/-- `sio.clockPulseReceiver(c, n)` (43_sio.md R229). -/
def execSioClockPulseReceiver (c : Side) (n : Nat) (s : State) : Host.Outcome State Fault Refusal :=
  .next (s.sioRun (repeatPulse (sioRxPulse c) n s.sio))

/-- `sio.clockPulseSender(c, n)` (43_sio.md R232). -/
def execSioClockPulseSender (c : Side) (n : Nat) (s : State) : Host.Outcome State Fault Refusal :=
  .next (s.sioRun (repeatPulse (sioTxPulse c) n s.sio))

/-- `sio.setClearToSend(c, level)` (43_sio.md R234). -/
def execSioSetClearToSend (c : Side) (level : Bool) (s : State) : Host.Outcome State Fault Refusal :=
  .next ((s.modSio c fun q => { q.modemChange q.cts level with cts := some level }).returning .unit)

/-- `sio.setDataCarrierDetect(c, level)` (43_sio.md R235). -/
def execSioSetDataCarrierDetect (c : Side) (level : Bool) (s : State) : Host.Outcome State Fault Refusal :=
  .next ((s.modSio c fun q => { q.modemChange q.dcd level with dcd := some level }).returning .unit)

/-- `sio.onClockPulses(n)` (43_sio.md R236). -/
def execSioOnClockPulses (n : BitVec 32) (s : State) : Host.Outcome State Fault Refusal :=
  .next (s.sioRun (repeatPulse (sioPulse s.wiring) n.toNat s.sio))

/-- `sio.isRequested()` (43_sio.md R237). -/
def execSioIsRequested (s : State) : Host.Outcome State Fault Refusal :=
  .next (s.returning (.bool (s.isRequested .sio)))

/-- `sio.isAccepted()` (43_sio.md R237). -/
def execSioIsAccepted (s : State) : Host.Outcome State Fault Refusal :=
  .next (s.returning (.bool (s.isAccepted .sio)))

/-- `sio.accept()` (43_sio.md R238). -/
def execSioAccept (s : State) : Host.Outcome State Fault Refusal := acceptDevice .sio s

/-- `sio.finish()` (43_sio.md R240). -/
def execSioFinish (s : State) : Host.Outcome State Fault Refusal := .next ((finishDevice .sio s).returning .unit)

/-- `sio.statusSnapshot()` (43_sio.md R241). -/
def execSioStatusSnapshot (s : State) : Host.Outcome State Fault Refusal := .next (s.returning s.sioSnapshot)

/-- `sio.reset(powerOn)` (70_reset_and_hazards.md R304); it emits no event (R306). -/
def execSioReset (powerOn : Bool) (s : State) : Host.Outcome State Fault Refusal :=
  .next (s.sioRun (s.sio.resetDevice powerOn, []))

/-- `sio.setReg(c, n, b)`: the pointer byte `n`, then the value, two control writes in one step (30_encoding.md R108;
log 13); register 0 is none it takes (93_implementation_defined.md U1). DESIGN CHOICE (log 23): the rule calls it valid
only with the pointer at 0 before it; with another pointer the same two writes are performed, and each does what it does
there: the first is stored in the register addressed, the second is a `wr[0]` byte. -/
def execSioSetReg (c : Side) (n : BitVec 3) (b : Byte) (s : State) : Host.Outcome State Fault Refusal :=
  if setRegNumberOk n then .next (((s.sioWriteByte c (n.setWidth 8)).sioWriteByte c b).returning .unit)
  else .refused .indexOutOfRange

end Sys2Proof.Machine
end

