-- ==== Sys2Proof/Machine/Dispatch.lean ====
section
/-! DEFINITION. The dispatch: one arm for each instruction, one direct call of its meaning. -/

namespace Sys2Proof.Machine

/-- The meaning of an instruction: the operations are those of 20_memory.md R60, R61. -/
def exec (i : Instr) (s : State) : Host.Outcome State Fault Refusal :=
  match i with
  | .ctcTc k sel t => Sys2Proof.Machine.execCtcTc k sel t s
  | .ctcVec k sel base ignored => Sys2Proof.Machine.execCtcVec k sel base ignored s
  | .ctcCw k sel w => Sys2Proof.Machine.execCtcCw k sel w s
  | .pioDir p m => Sys2Proof.Machine.execPioDir p m s
  | .pioImask p m => Sys2Proof.Machine.execPioImask p m s
  | .pioVec p v => Sys2Proof.Machine.execPioVec p v s
  | .pioMode p m ignored => Sys2Proof.Machine.execPioMode p m ignored s
  | .pioIcw p w => Sys2Proof.Machine.execPioIcw p w s
  | .pioIew p e ignored => Sys2Proof.Machine.execPioIew p e ignored s
  | .pioRsvd p ignored => Sys2Proof.Machine.execPioRsvd p ignored s
  | .pioRsvdB p ignored => Sys2Proof.Machine.execPioRsvdB p ignored s
  | .sioWr0Null c crc ptr => Sys2Proof.Machine.execSioWr0Null c crc ptr s
  | .sioWr0Cmd1None c crc ptr => Sys2Proof.Machine.execSioWr0Cmd1None c crc ptr s
  | .sioWr0ResetExtStatus c crc ptr => Sys2Proof.Machine.execSioWr0ResetExtStatus c crc ptr s
  | .sioWr0ChannelReset c crc ptr => Sys2Proof.Machine.execSioWr0ChannelReset c crc ptr s
  | .sioWr0EnableFirstChar c crc ptr => Sys2Proof.Machine.execSioWr0EnableFirstChar c crc ptr s
  | .sioWr0ResetTxInt c crc ptr => Sys2Proof.Machine.execSioWr0ResetTxInt c crc ptr s
  | .sioWr0ErrorReset c crc ptr => Sys2Proof.Machine.execSioWr0ErrorReset c crc ptr s
  | .sioWr0Reti c crc ptr => Sys2Proof.Machine.execSioWr0Reti c crc ptr s
  | .sioWr1 c w => Sys2Proof.Machine.execSioWr1 c w s
  | .sioWr2 c v => Sys2Proof.Machine.execSioWr2 c v s
  | .sioWr3 c w => Sys2Proof.Machine.execSioWr3 c w s
  | .sioWr4 c w => Sys2Proof.Machine.execSioWr4 c w s
  | .sioWr5 c w => Sys2Proof.Machine.execSioWr5 c w s
  | .sioWr6 c v => Sys2Proof.Machine.execSioWr6 c v s
  | .sioWr7 c v => Sys2Proof.Machine.execSioWr7 c v s
  | .sioRr0 c => Sys2Proof.Machine.execSioRr0 c s
  | .sioRr1 c => Sys2Proof.Machine.execSioRr1 c s
  | .ctcVector => Sys2Proof.Machine.execCtcVector s
  | .pioVector => Sys2Proof.Machine.execPioVector s
  | .sioVector => Sys2Proof.Machine.execSioVector s
  | .ctcWriteControl k b => Sys2Proof.Machine.execCtcWriteControl k b s
  | .ctcWriteData k b => Sys2Proof.Machine.execCtcWriteData k b s
  | .ctcReadData k => Sys2Proof.Machine.execCtcReadData k s
  | .ctcReadControl k => Sys2Proof.Machine.execCtcReadControl k s
  | .ctcOnClockPulses n => Sys2Proof.Machine.execCtcOnClockPulses n s
  | .ctcExternalEdge k rising => Sys2Proof.Machine.execCtcExternalEdge k rising s
  | .ctcExternalPulses k n => Sys2Proof.Machine.execCtcExternalPulses k n s
  | .ctcConnectCascade src dst => Sys2Proof.Machine.execCtcConnectCascade src dst s
  | .ctcIsRequested => Sys2Proof.Machine.execCtcIsRequested s
  | .ctcIsAccepted => Sys2Proof.Machine.execCtcIsAccepted s
  | .ctcAccept => Sys2Proof.Machine.execCtcAccept s
  | .ctcFinish => Sys2Proof.Machine.execCtcFinish s
  | .ctcStatusSnapshot => Sys2Proof.Machine.execCtcStatusSnapshot s
  | .ctcReset powerOn => Sys2Proof.Machine.execCtcReset powerOn s
  | .pioWriteControl p b => Sys2Proof.Machine.execPioWriteControl p b s
  | .pioWriteData p v => Sys2Proof.Machine.execPioWriteData p v s
  | .pioReadData p => Sys2Proof.Machine.execPioReadData p s
  | .pioReadControl p => Sys2Proof.Machine.execPioReadControl p s
  | .pioPutInValue p v m strobe => Sys2Proof.Machine.execPioPutInValue p v m strobe s
  | .pioFetchOutValue p strobe => Sys2Proof.Machine.execPioFetchOutValue p strobe s
  | .pioOnClockPulses n => Sys2Proof.Machine.execPioOnClockPulses n s
  | .pioIsRequested => Sys2Proof.Machine.execPioIsRequested s
  | .pioIsAccepted => Sys2Proof.Machine.execPioIsAccepted s
  | .pioAccept => Sys2Proof.Machine.execPioAccept s
  | .pioFinish => Sys2Proof.Machine.execPioFinish s
  | .pioStatusSnapshot => Sys2Proof.Machine.execPioStatusSnapshot s
  | .pioReset powerOn => Sys2Proof.Machine.execPioReset powerOn s
  | .sioWriteControl c b => Sys2Proof.Machine.execSioWriteControl c b s
  | .sioReadControl c => Sys2Proof.Machine.execSioReadControl c s
  | .sioWriteData c v => Sys2Proof.Machine.execSioWriteData c v s
  | .sioReadData c => Sys2Proof.Machine.execSioReadData c s
  | .sioAvailable c => Sys2Proof.Machine.execSioAvailable c s
  | .sioPutToReceiver c v => Sys2Proof.Machine.execSioPutToReceiver c v s
  | .sioClockPulseReceiver c n => Sys2Proof.Machine.execSioClockPulseReceiver c n s
  | .sioClockPulseSender c n => Sys2Proof.Machine.execSioClockPulseSender c n s
  | .sioSetClearToSend c level => Sys2Proof.Machine.execSioSetClearToSend c level s
  | .sioSetDataCarrierDetect c level => Sys2Proof.Machine.execSioSetDataCarrierDetect c level s
  | .sioOnClockPulses n => Sys2Proof.Machine.execSioOnClockPulses n s
  | .sioIsRequested => Sys2Proof.Machine.execSioIsRequested s
  | .sioIsAccepted => Sys2Proof.Machine.execSioIsAccepted s
  | .sioAccept => Sys2Proof.Machine.execSioAccept s
  | .sioFinish => Sys2Proof.Machine.execSioFinish s
  | .sioStatusSnapshot => Sys2Proof.Machine.execSioStatusSnapshot s
  | .sioReset powerOn => Sys2Proof.Machine.execSioReset powerOn s
  | .sioSetReg c n b => Sys2Proof.Machine.execSioSetReg c n b s
  | .chainRequest => Sys2Proof.Machine.execChainRequest s
  | .chainAccept => Sys2Proof.Machine.execChainAccept s
  | .chainFinish => Sys2Proof.Machine.execChainFinish s

end Sys2Proof.Machine
end

