-- ==== Sys2Proof/Machine/Step.lean ====
section
/-! DEFINITION. The step: the next operation of the input is taken, decoded and performed. -/

namespace Sys2Proof.Machine

/-- One step (00_scope.md R5, 20_memory.md R66): the next operation is performed whole. With no operation waiting nothing
happens, because no device acts by itself (20_memory.md R72; log 2). -/
def step (s : State) : Host.Outcome State Fault Refusal :=
  match fetch s with
  | none => .next s
  | some (f, t) =>
    match decode f with
    | .ok i => exec i t
    | .error e => .refused (refusalOf e)

/-- The state with the frame of a table word as the next operation (log 2). -/
def State.withFetchWord (s : State) (nbits w : Nat) : State := s.present (frameOfWord nbits w)

end Sys2Proof.Machine
end

