-- ==== Sys2Proof/Safety.lean ====
section
/-! DEFINITION. What holds in every state a run reaches (the invariants of 10_state.md R23, R27, R35), and the terms the
statements use: which byte an instruction writes, which device it belongs to, and what enables a source. -/

namespace Sys2Proof.Machine

/-! ## Invariants of the CTC (10_state.md R22, R23) -/

/-- The four channels. -/
def CtcIx.all : List CtcIx := [.c0, .c1, .c2, .c3]

/-- A number that a time constant can be (30_encoding.md R84). -/
abbrev TimeConstant (n : Nat) : Prop := 1 ≤ n ∧ n ≤ 256

/-- The ranges of a channel's fields (10_state.md R22); a running channel is loaded, and a loaded one does not stand at 0
(R23 (a), (c)). -/
abbrev CtcChannel.Ok (c : CtcChannel) : Prop :=
  (c.running = true → c.counterInit.isSome = true) ∧
    (∀ v, c.counterInit = some v → TimeConstant v ∧ 1 ≤ c.counter) ∧
    c.counter ≤ 256 ∧ c.prescaler ≤ 255 ∧
    ∀ v, c.pendingLoadValue = some v → TimeConstant v

/-- The channel reached after following `n` cascade links from channel `i`. -/
def Ctc.follow (c : Ctc) : Nat → CtcIx → Option CtcIx
  | 0, i => some i
  | n + 1, i => (c.ch i).cascadeTo.bind (c.follow n)

/-- The two ends of every cascade link agree, and no chain of links is longer than three, so there is no cycle
(10_state.md R23 (e)). -/
abbrev Ctc.WiredOk (c : Ctc) : Prop :=
  (∀ a ∈ CtcIx.all, ∀ b ∈ CtcIx.all, (c.ch a).cascadeTo = some b ↔ (c.ch b).cascadeFrom = some a) ∧
    ∀ i ∈ CtcIx.all, c.follow 4 i = none

/-- The CTC's invariant (10_state.md R23). -/
abbrev Ctc.Ok (c : Ctc) : Prop :=
  c.vector.extractLsb' 0 3 = 0 ∧ c.ch0.Ok ∧ c.ch1.Ok ∧ c.ch2.Ok ∧ c.ch3.Ok ∧ c.WiredOk

/-- Channel `b` is reached from channel `a` over any number of cascade links. -/
inductive Ctc.Reaches (c : Ctc) : CtcIx → CtcIx → Prop where
  | here (a : CtcIx) : c.Reaches a a
  | link (a k b : CtcIx) : (c.ch a).cascadeTo = some k → c.Reaches k b → c.Reaches a b

/-! ## Invariants of the PIO (10_state.md R27) -/

/-- The state reset gives a port, but for the vector, the output and input registers and the fresh bits
(10_state.md R27 (d), 70_reset_and_hazards.md R303). -/
abbrev PioPort.AsReset (p : PioPort) : Prop :=
  p.mode = .byteIn ∧ p.inputDirectionMask = 0xFF ∧ p.bitMask = 0xFF ∧ p.ready = false ∧ p.intEnabled = false ∧
    p.intRequested = false ∧ p.intAccepted = false ∧ p.fireOnHigh = false ∧ p.bitsAndCombined = false ∧
    p.conditionCurrentlyFulfilled = false ∧ p.nextControl = .command

/-- A mask is expected only in bit mode (10_state.md R27 (c)), and the stored condition is the condition of the lines in
bit mode and false outside it (42_pio.md R186, R187). -/
abbrev PioPort.Ok (p : PioPort) : Prop :=
  (p.nextControl ≠ .command → p.mode = .bitInOut) ∧
    p.conditionCurrentlyFulfilled = (p.mode == .bitInOut && p.conditionOf)

/-- The PIO's invariant (10_state.md R27 (b), (c), (d)). -/
abbrev Pio.Ok (d : Pio) : Prop :=
  d.portA.Ok ∧ d.portB.Ok ∧ d.portB.mode ≠ .byteInOut ∧ (d.resetState = true → d.portA.AsReset ∧ d.portB.AsReset)

/-- Line `k` of a port in bit mode: from outside where the direction mask has 1, else from the output register
(42_pio.md R186). -/
def PioPort.line (p : PioPort) (k : Nat) : Bool :=
  if p.inputDirectionMask.getLsbD k then p.inputRegister.getLsbD k else p.outputRegister.getLsbD k

/-- Line `k` is monitored: its mask bit is 0 (30_encoding.md R91). -/
def PioPort.Monitored (p : PioPort) (k : Nat) : Prop := k < 8 ∧ p.bitMask.getLsbD k = false

/-- The bit-mode condition, line by line (42_pio.md R186): with AND some line is monitored and every monitored line has
the level that counts, with OR some monitored line has it. -/
def PioPort.Fulfilled (p : PioPort) : Prop :=
  if p.bitsAndCombined then (∃ k, p.Monitored k) ∧ ∀ k, p.Monitored k → p.line k = p.fireOnHigh
  else ∃ k, p.Monitored k ∧ p.line k = p.fireOnHigh

/-! ## Invariants of the SIO (10_state.md R31, R32, R35) -/

/-- A channel's invariant: the FIFO holds at most three, a frame under way has its byte, the counts are in their ranges,
and an idle shifter has accumulated nothing. -/
abbrev SioChannel.Ok (c : SioChannel) : Prop :=
  c.receiveFifoLen ≤ 3 ∧ (0 < c.txBitsRemaining → c.txBufferEmpty = false) ∧ c.txBitsRemaining ≤ 11 ∧
    c.rxBitsRemaining ≤ 11 ∧ c.txDivAcc ≤ 63 ∧ c.rxDivAcc ≤ 63 ∧ (c.txBitsRemaining = 0 → c.txDivAcc = 0) ∧
    (c.rxBitsRemaining = 0 → c.rxDivAcc = 0)

/-- The SIO's invariant. -/
abbrev Sio.Ok (d : Sio) : Prop := d.chA.Ok ∧ d.chB.Ok

/-- What holds in every state a run reaches from reset. -/
abbrev State.Inv (s : State) : Prop := s.ctc.Ok ∧ s.pio.Ok ∧ s.sio.Ok

/-! ## Which byte an instruction writes to a control selector

One constructor for each instruction that is such a write; the byte of a format row is given by its bits
(30_encoding.md section 2 to section 4). -/

/-- The instruction writes byte `b` to CTC channel `i` (either selector, 41_ctc.md R144). -/
inductive CtcWrites : Instr → CtcIx → Byte → Prop where
  | control (i : CtcIx) (b : Byte) : CtcWrites (.ctcWriteControl i b) i b
  | data (i : CtcIx) (b : Byte) : CtcWrites (.ctcWriteData i b) i b
  | tc (i : CtcIx) (sel : Selector) (b : Byte) : CtcWrites (.ctcTc i sel b) i b
  | vec (i : CtcIx) (sel : Selector) (base : BitVec 5) (x : BitVec 2) (b : Byte) :
      b.extractLsb' 3 5 = base → b.extractLsb' 1 2 = x → b.getLsbD 0 = false → CtcWrites (.ctcVec i sel base x) i b
  | cw (i : CtcIx) (sel : Selector) (w : CtcControl) (b : Byte) :
      b.getLsbD 7 = w.interruptEnable → b.getLsbD 6 = w.counterMode → b.getLsbD 5 = w.prescale256 →
      b.getLsbD 4 = w.risingEdge → b.getLsbD 3 = w.waitForTrigger → b.getLsbD 2 = w.constantFollows →
      b.getLsbD 1 = w.softwareReset → b.getLsbD 0 = true → CtcWrites (.ctcCw i sel w) i b

/-- The instruction writes byte `b` to the control selector of PIO port `p`. -/
inductive PioWrites : Instr → Side → Byte → Prop where
  | control (p : Side) (b : Byte) : PioWrites (.pioWriteControl p b) p b
  | dir (p : Side) (b : Byte) : PioWrites (.pioDir p b) p b
  | imask (p : Side) (b : Byte) : PioWrites (.pioImask p b) p b
  | vec (p : Side) (v : BitVec 7) (b : Byte) :
      b.extractLsb' 1 7 = v → b.getLsbD 0 = false → PioWrites (.pioVec p v) p b
  | modeOut (p : Side) (x : BitVec 2) (b : Byte) :
      b.extractLsb' 6 2 = 0 → b.extractLsb' 4 2 = x → b.extractLsb' 0 4 = 0xF → PioWrites (.pioMode p .byteOut x) p b
  | modeIn (p : Side) (x : BitVec 2) (b : Byte) :
      b.extractLsb' 6 2 = 1 → b.extractLsb' 4 2 = x → b.extractLsb' 0 4 = 0xF → PioWrites (.pioMode p .byteIn x) p b
  | modeInOut (p : Side) (x : BitVec 2) (b : Byte) :
      b.extractLsb' 6 2 = 2 → b.extractLsb' 4 2 = x → b.extractLsb' 0 4 = 0xF → PioWrites (.pioMode p .byteInOut x) p b
  | modeBit (p : Side) (x : BitVec 2) (b : Byte) :
      b.extractLsb' 6 2 = 3 → b.extractLsb' 4 2 = x → b.extractLsb' 0 4 = 0xF → PioWrites (.pioMode p .bitInOut x) p b
  | icw (p : Side) (w : PioCondition) (b : Byte) :
      b.getLsbD 7 = w.interruptEnable → b.getLsbD 6 = w.andCombined → b.getLsbD 5 = w.activeHigh →
      b.getLsbD 4 = w.maskFollows → b.extractLsb' 0 4 = 0x7 → PioWrites (.pioIcw p w) p b
  | iew (p : Side) (e : Bool) (x : BitVec 3) (b : Byte) :
      b.getLsbD 7 = e → b.extractLsb' 4 3 = x → b.extractLsb' 0 4 = 0x3 → PioWrites (.pioIew p e x) p b
  | rsvd (p : Side) (x : BitVec 6) (b : Byte) :
      b.extractLsb' 2 6 = x → b.extractLsb' 0 2 = 1 → PioWrites (.pioRsvd p x) p b
  | rsvdB (p : Side) (x : BitVec 4) (b : Byte) :
      b.extractLsb' 4 4 = x → b.extractLsb' 0 4 = 0xB → PioWrites (.pioRsvdB p x) p b

/-- A byte has the three fields of a `wr[0]` byte: CRC code, command code, pointer (30_encoding.md R94). -/
def Wr0Fields (b : Byte) (crc : BitVec 2) (cmd ptr : BitVec 3) : Prop :=
  b.extractLsb' 6 2 = crc ∧ b.extractLsb' 3 3 = cmd ∧ b.extractLsb' 0 3 = ptr

/-- The instruction writes byte `b` to the control selector of SIO channel `c`. -/
inductive SioWrites : Instr → Side → Byte → Prop where
  | control (c : Side) (b : Byte) : SioWrites (.sioWriteControl c b) c b
  | null (c : Side) (crc : BitVec 2) (ptr : BitVec 3) (b : Byte) :
      Wr0Fields b crc 0 ptr → SioWrites (.sioWr0Null c crc ptr) c b
  | cmd1 (c : Side) (crc : BitVec 2) (ptr : BitVec 3) (b : Byte) :
      Wr0Fields b crc 1 ptr → SioWrites (.sioWr0Cmd1None c crc ptr) c b
  | resetExt (c : Side) (crc : BitVec 2) (ptr : BitVec 3) (b : Byte) :
      Wr0Fields b crc 2 ptr → SioWrites (.sioWr0ResetExtStatus c crc ptr) c b
  | channelReset (c : Side) (crc : BitVec 2) (ptr : BitVec 3) (b : Byte) :
      Wr0Fields b crc 3 ptr → SioWrites (.sioWr0ChannelReset c crc ptr) c b
  | firstChar (c : Side) (crc : BitVec 2) (ptr : BitVec 3) (b : Byte) :
      Wr0Fields b crc 4 ptr → SioWrites (.sioWr0EnableFirstChar c crc ptr) c b
  | resetTx (c : Side) (crc : BitVec 2) (ptr : BitVec 3) (b : Byte) :
      Wr0Fields b crc 5 ptr → SioWrites (.sioWr0ResetTxInt c crc ptr) c b
  | errorReset (c : Side) (crc : BitVec 2) (ptr : BitVec 3) (b : Byte) :
      Wr0Fields b crc 6 ptr → SioWrites (.sioWr0ErrorReset c crc ptr) c b
  | reti (c : Side) (crc : BitVec 2) (ptr : BitVec 3) (b : Byte) :
      Wr0Fields b crc 7 ptr → SioWrites (.sioWr0Reti c crc ptr) c b
  | wr1 (c : Side) (w : Wr1) (b : Byte) :
      b.extractLsb' 5 3 = w.waitReady → b.extractLsb' 3 2 = w.rxMode → b.getLsbD 2 = w.statusAffectsVector →
      b.getLsbD 1 = w.txIntEnable → b.getLsbD 0 = w.extIntEnable → SioWrites (.sioWr1 c w) c b
  | wr2 (c : Side) (b : Byte) : SioWrites (.sioWr2 c b) c b
  | wr3 (c : Side) (w : Wr3) (b : Byte) :
      b.extractLsb' 6 2 = w.rxBits → b.extractLsb' 1 5 = w.stored → b.getLsbD 0 = w.rxEnable → SioWrites (.sioWr3 c w) c b
  | wr4 (c : Side) (w : Wr4) (b : Byte) :
      b.extractLsb' 6 2 = w.clockRate → b.extractLsb' 4 2 = w.syncMode → b.extractLsb' 2 2 = w.stopBits →
      b.getLsbD 1 = w.parityEven → b.getLsbD 0 = w.parityEnable → SioWrites (.sioWr4 c w) c b
  | wr5 (c : Side) (w : Wr5) (b : Byte) :
      b.getLsbD 7 = w.dtr → b.extractLsb' 5 2 = w.txBits → b.getLsbD 4 = w.sendBreak → b.getLsbD 3 = w.txEnable →
      b.getLsbD 2 = w.crcSelect → b.getLsbD 1 = w.rts → b.getLsbD 0 = w.txCrcEnable → SioWrites (.sioWr5 c w) c b
  | wr6 (c : Side) (b : Byte) : SioWrites (.sioWr6 c b) c b
  | wr7 (c : Side) (b : Byte) : SioWrites (.sioWr7 c b) c b

/-! ## Devices and sources -/

/-- The device an instruction is an operation of; the chain's operations belong to none (60_exceptions.md R274). -/
def deviceOf : Instr → Option Device
  | .ctcTc .. | .ctcVec .. | .ctcCw .. | .ctcVector .. | .ctcWriteControl .. | .ctcWriteData .. | .ctcReadData ..
  | .ctcReadControl .. | .ctcOnClockPulses .. | .ctcExternalEdge .. | .ctcExternalPulses .. | .ctcConnectCascade ..
  | .ctcIsRequested .. | .ctcIsAccepted .. | .ctcAccept .. | .ctcFinish .. | .ctcStatusSnapshot .. | .ctcReset .. =>
    some .ctc
  | .pioDir .. | .pioImask .. | .pioVec .. | .pioMode .. | .pioIcw .. | .pioIew .. | .pioRsvd .. | .pioRsvdB ..
  | .pioVector .. | .pioWriteControl .. | .pioWriteData .. | .pioReadData .. | .pioReadControl .. | .pioPutInValue ..
  | .pioFetchOutValue .. | .pioOnClockPulses .. | .pioIsRequested .. | .pioIsAccepted .. | .pioAccept ..
  | .pioFinish .. | .pioStatusSnapshot .. | .pioReset .. =>
    some .pio
  | .sioWr0Null .. | .sioWr0Cmd1None .. | .sioWr0ResetExtStatus .. | .sioWr0ChannelReset ..
  | .sioWr0EnableFirstChar .. | .sioWr0ResetTxInt .. | .sioWr0ErrorReset .. | .sioWr0Reti .. | .sioWr1 ..
  | .sioWr2 .. | .sioWr3 .. | .sioWr4 .. | .sioWr5 .. | .sioWr6 .. | .sioWr7 .. | .sioRr0 .. | .sioRr1 ..
  | .sioVector .. | .sioWriteControl .. | .sioReadControl .. | .sioWriteData .. | .sioReadData .. | .sioAvailable ..
  | .sioPutToReceiver .. | .sioClockPulseReceiver .. | .sioClockPulseSender .. | .sioSetClearToSend ..
  | .sioSetDataCarrierDetect .. | .sioOnClockPulses .. | .sioIsRequested .. | .sioIsAccepted .. | .sioAccept ..
  | .sioFinish .. | .sioStatusSnapshot .. | .sioReset .. | .sioSetReg .. =>
    some .sio
  | .chainRequest .. | .chainAccept .. | .chainFinish .. => none

/-- The instructions that accept an interrupt (40_contracts.md R126, 60_exceptions.md R276). -/
def accepts : Instr → Bool
  | .ctcVector | .ctcAccept | .pioVector | .pioAccept | .sioVector | .sioAccept | .chainAccept => true
  | _ => false

/-- The enable of a source (60_exceptions.md R271). -/
def State.enabled (s : State) : Source → Bool
  | .ctc i => (s.ctc.ch i).interruptEnabled
  | .pio p => (s.pio.port p).intEnabled
  | .sio c .rx => (s.sio.ch c).wr.wr1.extractLsb' 3 2 != 0
  | .sio c .tx => (s.sio.ch c).wr.wr1.getLsbD 1
  | .sio c .ext => (s.sio.ch c).wr.wr1.getLsbD 0

/-- At most one source of each device is in service (60_exceptions.md R278 (a)). -/
def State.OneInService (s : State) : Prop :=
  ∀ d x y, x ∈ sources d → y ∈ sources d → s.accepted x = true → s.accepted y = true → x = y

/-- `v` is the vector byte of source `x` in state `s` (60_exceptions.md R279). -/
def IsVector (s : State) (v : Byte) : Source → Prop
  | .ctc i => v.toNat = (s.ctc.vector.toNat + 2 * i.toNat) % 256
  | .pio p => v = (s.pio.port p).vector
  | .sio c k =>
    if s.sio.chB.wr.wr1.getLsbD 2 = true then
      ((c, k, (s.sio.ch c).rxOverrunLatch), v &&& 0x0E) ∈
          [((Side.a, SioKind.rx, true), (0x0E : Byte)), ((.a, .rx, false), 0x0C), ((.a, .tx, true), 0x08),
            ((.a, .tx, false), 0x08), ((.a, .ext, true), 0x0A), ((.a, .ext, false), 0x0A), ((.b, .rx, true), 0x06),
            ((.b, .rx, false), 0x04), ((.b, .tx, true), 0x00), ((.b, .tx, false), 0x00), ((.b, .ext, true), 0x02),
            ((.b, .ext, false), 0x02)] ∧
        v &&& 0xF1 = s.sio.chB.wr.wr2 &&& 0xF1
    else v = s.sio.chB.wr.wr2

/-! ## Status bytes, widths and timing by their bits -/

/-- `v` is the byte `rr[0]` of channel `c`, bit by bit (30_encoding.md R101, 43_sio.md R221). -/
def IsRr0 (s : State) (c : Side) (v : Byte) : Prop :=
  (v.getLsbD 0 = true ↔ 0 < (s.sio.ch c).receiveFifoLen) ∧
    (v.getLsbD 1 = true ↔ c = .a ∧ ∃ e k, s.requested (.sio e k) = true ∧ s.accepted (.sio e k) = false) ∧
    v.getLsbD 2 = (s.sio.ch c).txBufferEmpty ∧ (v.getLsbD 3 = true ↔ (s.sio.ch c).dcd = some true) ∧
    v.getLsbD 4 = false ∧ (v.getLsbD 5 = true ↔ (s.sio.ch c).cts = some true) ∧ v.getLsbD 6 = false ∧
    v.getLsbD 7 = false

/-- `v` is the byte `rr[1]` of channel `c`, bit by bit (30_encoding.md R102, 43_sio.md R222). -/
def IsRr1 (s : State) (c : Side) (v : Byte) : Prop :=
  v.getLsbD 0 = (s.sio.ch c).txBufferEmpty ∧ v.getLsbD 5 = (s.sio.ch c).rxOverrunLatch ∧
    ∀ k ∈ [1, 2, 3, 4, 6, 7], v.getLsbD k = false

/-- `n` is the character width of a two-bit code (30_encoding.md R97, R99). -/
def CharacterWidth (code : BitVec 2) (n : Nat) : Prop := (code, n) ∈ [((0 : BitVec 2), 5), (1, 7), (2, 6), (3, 8)]

/-- `n` is the number of shift clocks of a stop-bit code (30_encoding.md R98, 43_sio.md R226). -/
def StopClocks (code : BitVec 2) (n : Nat) : Prop := (code, n) ∈ [((0 : BitVec 2), 0), (1, 1), (2, 2), (3, 2)]

/-- `n` is the divisor of channel `q`'s clock-rate code (30_encoding.md R98). -/
def ClockDivisor (q : SioChannel) (n : Nat) : Prop :=
  (q.wr.wr4.extractLsb' 6 2, n) ∈ [((0 : BitVec 2), 1), (1, 16), (2, 32), (3, 64)]

/-- Channel `q` receives characters of `n` bits. -/
def RxWidth (q : SioChannel) (n : Nat) : Prop := CharacterWidth (q.wr.wr3.extractLsb' 6 2) n

/-- Channel `q` transmits characters of `n` bits. -/
def TxWidth (q : SioChannel) (n : Nat) : Prop := CharacterWidth (q.wr.wr5.extractLsb' 5 2) n

/-- A frame of characters of `width` bits takes `n` shift clocks in channel `q`: the data, parity and stop bits
(43_sio.md R226). -/
def FrameClocks (q : SioChannel) (width n : Nat) : Prop :=
  ∃ stop, StopClocks (q.wr.wr4.extractLsb' 2 2) stop ∧ n = width + (q.wr.wr4.getLsbD 0).toNat + stop

/-- The receiver can take a byte: stop bits programmed and the receiver enabled (43_sio.md R227). -/
def RxUsable (q : SioChannel) : Prop := q.wr.wr4.extractLsb' 2 2 ≠ 0 ∧ q.wr.wr3.getLsbD 0 = true

/-- The transmitter can send: stop bits programmed and the transmitter enabled (43_sio.md R227). -/
def TxUsable (q : SioChannel) : Prop := q.wr.wr4.extractLsb' 2 2 ≠ 0 ∧ q.wr.wr5.getLsbD 3 = true

/-- `v` is the low `width` bits of `b` (40_contracts.md R130 (f)). -/
def LowBits (width : Nat) (b v : Byte) : Prop := ∀ k, v.getLsbD k = (decide (k < width) && b.getLsbD k)

/-- `m` is the mode of bits 7:6 of a PIO mode word (30_encoding.md R86). -/
def ModeCode (b : Byte) (m : PioMode) : Prop :=
  (b.extractLsb' 6 2, m) ∈ [((0 : BitVec 2), PioMode.byteOut), (1, .byteIn), (2, .byteInOut), (3, .bitInOut)]

/-- A PIO mode word for the mode port B does not have (42_pio.md R194). -/
def BidirectionalB (s : State) (p : Side) (b : Byte) : Prop :=
  p = .b ∧ s.pio.portB.nextControl = .command ∧ b.extractLsb' 0 4 = 0xF ∧ b.extractLsb' 6 2 = 2

/-- The pulses of a prescaler period (41_ctc.md R148). -/
def CtcChannel.period (c : CtcChannel) : Nat := if c.prescaler256 then 256 else 16

/-- The channel ignores clock pulses, and goes on ignoring them after an edge: no load is pending, and it is in counter
mode, or stopped and never loaded (41_ctc.md R147, R148, R151). -/
def CtcChannel.IgnoresPulses (c : CtcChannel) : Prop :=
  c.pendingLoadValue = none ∧ (c.timerMode = false ∨ (c.running = false ∧ c.counterInit = none))

/-- The channel after the pulse that commits its pending load `w` (41_ctc.md R147). -/
def CtcChannel.loadedWith (c : CtcChannel) (w : Nat) : CtcChannel :=
  { c with
    pendingLoadValue := none
    counterInit := some w
    counter := if c.running then c.counter else w
    prescaler := if c.running then c.prescaler else 0
    running := c.running || !(c.timerMode && c.waitForTrigger) }

/-- The channel counts and its count and its prescaler are at their last step: the next pulse is its zero-crossing
(41_ctc.md R147, R148, R149). -/
def CtcChannel.Crossing (c : CtcChannel) : Prop :=
  c.pendingLoadValue = none ∧ c.running = true ∧ c.timerMode = true ∧ c.period ≤ c.prescaler + 1 ∧ c.counter ≤ 1

end Sys2Proof.Machine
end

