-- ==== Sys2Proof/Certificates/Slice0/Obligations.lean ====
section
/-! DEFINITION. The statements for the provers. An equation `exec i s = .next { s with … }` is a completion, a result and a
frame at once: every field not named is as it was. The fields `ctcOperated`, `reply`, `trace`, `draws` and `input` are the
model's own (log 9, log 5, log 6, log 2). Where a docstring names a decision D<n>, the rule is one that the spec marks as
its own decision (92_eei_decisions.md). -/

open Sys2Proof Sys2Proof.Machine

/-! ## The machine -/

/-- Every field of the three devices after construction (70_reset_and_hazards.md R301 to R304; 10_state.md R21 to R34;
decisions D90, D91). The parameters and the model's own fields are not stated. -/
def Obligations.ResetLeavesPowerOnValues : Prop :=
  State.reset.ctc.vector = 0x00 ∧
    (∀ i, State.reset.ctc.ch i =
      { counterInit := none, counter := 0, prescaler := 0, pendingLoadValue := none, timerMode := true,
        prescaler256 := false, triggerEdgeHigh := false, waitForTrigger := false, expectTimeConstant := false,
        running := false, interruptEnabled := false, interruptRequested := false, interruptAccepted := false,
        cascadeFrom := none, cascadeTo := none }) ∧
    State.reset.pio.resetState = true ∧
    (∀ p, State.reset.pio.port p =
      { mode := .byteIn, outputRegister := 0x00, inputRegister := 0x00, inputDirectionMask := 0xFF, valueMask := 0x00,
        ready := false, intEnabled := false, intRequested := false, intAccepted := false, vector := 0x00,
        bitMask := 0xFF, fireOnHigh := false, bitsAndCombined := false, conditionCurrentlyFulfilled := false,
        nextControl := .command }) ∧
    ∀ c, State.reset.sio.ch c =
      { wr := ⟨0x00, 0x00, 0x00, 0x00, 0x00, 0x00, 0x00, 0x00⟩, rxOverrunLatch := false,
        receiveFifo := ⟨⟨0x00, false⟩, ⟨0x00, false⟩, ⟨0x00, false⟩⟩, receiveFifoLen := 0, txBuffer := 0x00,
        txBufferEmpty := true, txBitsRemaining := 0, txDivAcc := 0, rxShiftBuffer := 0x00, rxBitsRemaining := 0,
        rxDivAcc := 0, cts := none, dcd := none, rxRequested := false, rxAccepted := false, txRequested := false,
        txAccepted := false, extRequested := false, extAccepted := false, rxFirstCharArmed := false }

/-- A step runs the instruction that the first waiting frame decodes to, on the state without that frame; a frame that
decodes to none is refused; with no frame waiting nothing happens. How operations reach the block is the model's choice
(log 1, log 2). -/
def Obligations.StepRunsDecodedInstruction : Prop :=
  (∀ s f rest i, s.input = f :: rest → decode f = .ok i → step s = exec i { s with input := rest }) ∧
    (∀ s f rest e, s.input = f :: rest → decode f = .error e → ∃ r, step s = .refused r) ∧
    ∀ s, s.input = [] → step s = .next s

/-- Control bytes of the spec's examples, written out in their frames (log 1), decode to the instructions they stand for:
30_encoding.md R82, R83, R84, R86, R87, R88, R89, R94, R98. -/
def Obligations.ExampleBytesDecode : Prop :=
  decode [0b10100111, 2, 0, 0, 0, 0, 0, 0] =
      .ok (.ctcCw .c0 .control
        { interruptEnable := true, counterMode := false, prescale256 := true, risingEdge := false,
          waitForTrigger := false, constantFollows := true, softwareReset := true }) ∧
    decode [0b11100110, 2, 3, 0, 0, 0, 0, 0] = .ok (.ctcVec .c3 .control 0b11100 0b11) ∧
    decode [0x0A, 2, 0, 1, 0, 0, 0, 0] = .ok (.ctcTc .c0 .control 0x0A) ∧
    decode [0b11001111, 1, 0, 0, 0, 0, 0, 0] = .ok (.pioMode .a .bitInOut 0) ∧
    decode [0b11110111, 1, 0, 0, 0, 0, 0, 0] =
      .ok (.pioIcw .a { interruptEnable := true, andCombined := true, activeHigh := true, maskFollows := true }) ∧
    decode [0b10000011, 1, 1, 0, 0, 0, 0, 0] = .ok (.pioIew .b true 0) ∧
    decode [0b01010010, 1, 1, 0, 0, 0, 0, 0] = .ok (.pioVec .b 0b0101001) ∧
    decode [0b00011000, 0, 0, 0, 0, 0, 0, 0] = .ok (.sioWr0ChannelReset .a 0 0) ∧
    decode [0b01000100, 0, 0, 4, 0, 0, 0, 0] =
      .ok (.sioWr4 .a { clockRate := 1, syncMode := 0, stopBits := 1, parityEven := false, parityEnable := false })

/-- Decoding the encoding of any well-formed instruction gives it back: no bit of a frame is dropped (log 1). -/
def Obligations.DecodeOfEncode : Prop :=
  ∀ i : Instr, i.wellFormed = true → decode (encode i) = .ok i

/-- Bytes that decode to an instruction are its encoding, and the instruction is well formed: no two byte strings stand for
one instruction (log 1). -/
def Obligations.DecodedBytesAreTheEncoding : Prop :=
  ∀ (bs : List Byte) (i : Instr), decode bs = .ok i → encode i = bs ∧ i.wellFormed = true

/-- The invariants of 10_state.md R23, R27 and R35 hold at reset. -/
def Obligations.InvariantsHoldAtReset : Prop := State.reset.Inv

/-- Every step from every state with the invariants of 10_state.md R23, R27 and R35 keeps them. Two clauses of `State.Inv`
follow from the rules and are not numbered as invariants: the stored bit-mode condition is that of the lines (42_pio.md
R186, R187; decision D36), and an idle shifter has an empty divider (43_sio.md R229, R232). -/
def Obligations.StepKeepsInvariants : Prop :=
  ∀ s t : State, s.Inv → step s = .next t → t.Inv

/-- An operation of one device leaves the other two as they were (10_state.md R20; decision D8). -/
def Obligations.DevicesShareNoState : Prop :=
  ∀ (i : Instr) (d : Device) (s t : State), deviceOf i = some d → exec i s = .next t →
    (d ≠ .ctc → t.ctc = s.ctc ∧ t.ctcOperated = s.ctcOperated) ∧ (d ≠ .pio → t.pio = s.pio) ∧ (d ≠ .sio → t.sio = s.sio)

/-- No operation changes a parameter or another waiting operation, only `connectCascade` changes the cascade wiring, and
events are only appended (10_state.md R37, R44; 70_reset_and_hazards.md R305; decisions D2, D92). -/
def Obligations.ParametersAndWiringAreKept : Prop :=
  ∀ (i : Instr) (s t : State), exec i s = .next t →
    t.wiring = s.wiring ∧ t.input = s.input ∧ (∃ es, t.trace = s.trace ++ es) ∧
      ((∀ a b, i ≠ .ctcConnectCascade a b) → ∀ k,
        (t.ctc.ch k).cascadeTo = (s.ctc.ch k).cascadeTo ∧ (t.ctc.ch k).cascadeFrom = (s.ctc.ch k).cascadeFrom)

/-- No operation makes a source request an interrupt unless that source is enabled as the operation begins: an event at a
disabled source is lost (60_exceptions.md R271). -/
def Obligations.RequestsRiseOnlyWhenEnabled : Prop :=
  ∀ (i : Instr) (s t : State) (x : Source), exec i s = .next t → s.requested x = false → t.requested x = true →
    s.enabled x = true

/-- Only an acceptance puts a source in service, and only an acceptance or a reset drops the request of a PIO port
(60_exceptions.md R272; decisions D14, D19). -/
def Obligations.ServiceBeginsOnlyByAcceptance : Prop :=
  (∀ (i : Instr) (s t : State) (x : Source), exec i s = .next t → s.accepted x = false → t.accepted x = true →
      accepts i = true) ∧
    ∀ (i : Instr) (s t : State) (p : Side), exec i s = .next t → s.requested (.pio p) = true →
      t.requested (.pio p) = false → accepts i = true ∨ ∃ powerOn, i = .pioReset powerOn

/-- While the PIO's shared latch is set, an operation that neither clears it nor resets the device changes no `ready` flag,
makes no port request and emits nothing (42_pio.md R178; decision D39). -/
def Obligations.ResetLatchGatesThePio : Prop :=
  ∀ (i : Instr) (s t : State), deviceOf i = some .pio → (∀ powerOn, i ≠ .pioReset powerOn) → exec i s = .next t →
    s.pio.resetState = true → t.pio.resetState = true →
      t.trace = s.trace ∧
        ∀ p, (t.pio.port p).ready = (s.pio.port p).ready ∧
          ((s.pio.port p).intRequested = false → (t.pio.port p).intRequested = false)

/-- Every byte-format row is the write of its byte to the control selector of its device, in whatever sequencing state the
channel or port is, and the write completes unless the spec refuses it (30_encoding.md R80, 41_ctc.md R144, 42_pio.md R194;
log 3). -/
def Obligations.FormatRowsAreControlWrites : Prop :=
  (∀ (op : Instr) (i : CtcIx) (b : Byte) (s : State), CtcWrites op i b →
      exec op s = exec (.ctcWriteControl i b) s ∧ ∃ t, exec op s = .next t) ∧
    (∀ (op : Instr) (p : Side) (b : Byte) (s : State), PioWrites op p b →
      exec op s = exec (.pioWriteControl p b) s ∧ (¬ BidirectionalB s p b → ∃ t, exec op s = .next t)) ∧
    ∀ (op : Instr) (c : Side) (b : Byte) (s : State), SioWrites op c b →
      exec op s = exec (.sioWriteControl c b) s ∧ ∃ t, exec op s = .next t

/-! ## CTC -/

/-- A byte written to a channel that expects a time constant is one: 0 means 256 (41_ctc.md R143, 30_encoding.md R84). -/
def Obligations.TimeConstantIsPending : Prop :=
  ∀ (s : State) (i : CtcIx) (b : Byte), (s.ctc.ch i).expectTimeConstant = true →
    ∃ n, n = (if b = 0 then 256 else b.toNat) ∧ 1 ≤ n ∧ n ≤ 256 ∧
      exec (.ctcWriteControl i b) s = .next { s with
        ctc := s.ctc.setCh i { s.ctc.ch i with pendingLoadValue := some n, expectTimeConstant := false }
        ctcOperated := true
        reply := .unit }

/-- An even byte written to a channel that expects no time constant sets the one shared vector, its low three bits 0
(41_ctc.md R140, R142, 30_encoding.md R83; decision D12). -/
def Obligations.CtcVectorWordSetsVector : Prop :=
  ∀ (s : State) (i : CtcIx) (b : Byte), (s.ctc.ch i).expectTimeConstant = false → b.getLsbD 0 = false →
    exec (.ctcWriteControl i b) s = .next { s with
      ctc := { s.ctc with vector := b &&& 0xF8 }, ctcOperated := true, reply := .unit }

/-- An odd byte written to a channel that expects no time constant is a control word: its seven fields, software reset, and
the drop of both interrupt flags when it disables (41_ctc.md R140, R141, 30_encoding.md R82; decisions D10, D14, D15). -/
def Obligations.CtcControlWordSetsFields : Prop :=
  ∀ (s : State) (i : CtcIx) (b : Byte), (s.ctc.ch i).expectTimeConstant = false → b.getLsbD 0 = true →
    exec (.ctcWriteControl i b) s = .next { s with
      ctc := s.ctc.setCh i { s.ctc.ch i with
        interruptEnabled := b.getLsbD 7
        timerMode := !b.getLsbD 6
        prescaler256 := b.getLsbD 5
        triggerEdgeHigh := b.getLsbD 4
        waitForTrigger := b.getLsbD 3
        expectTimeConstant := b.getLsbD 2
        running := if b.getLsbD 1 then false else (s.ctc.ch i).running
        pendingLoadValue := if b.getLsbD 1 then none else (s.ctc.ch i).pendingLoadValue
        counterInit := if b.getLsbD 1 then none else (s.ctc.ch i).counterInit
        interruptRequested := if b.getLsbD 7 then (s.ctc.ch i).interruptRequested else false
        interruptAccepted := if b.getLsbD 7 then (s.ctc.ch i).interruptAccepted else false }
      ctcOperated := true
      reply := .unit }

/-- Reading either selector of a channel returns its counter modulo 256 and changes nothing (41_ctc.md R145;
decision D20). -/
def Obligations.CtcReadReturnsCounter : Prop :=
  ∀ (s : State) (i : CtcIx) (op : Instr), op = .ctcReadData i ∨ op = .ctcReadControl i →
    ∃ v : Byte, v.toNat = (s.ctc.ch i).counter % 256 ∧
      exec op s = .next { s with ctcOperated := true, reply := .byte v }

/-- The batch law: no pulses change nothing, a batch of `a + b` pulses is a batch of `a` and then one of `b`, and the PIO
ignores pulses (40_contracts.md R121, R122, 42_pio.md R193; decision D6). -/
def Obligations.PulseBatchesMerge : Prop :=
  (∀ s, exec (.ctcOnClockPulses 0) s = .next { s with ctcOperated := true, reply := .unit }) ∧
    (∀ s, exec (.sioOnClockPulses 0) s = .next { s with reply := .unit }) ∧
    (∀ s n, exec (.pioOnClockPulses n) s = .next { s with reply := .unit }) ∧
    ∀ (s : State) (a b : BitVec 32), a.toNat + b.toNat < 2 ^ 32 →
      (∃ t u, exec (.ctcOnClockPulses a) s = .next t ∧ exec (.ctcOnClockPulses b) t = .next u ∧
          exec (.ctcOnClockPulses (a + b)) s = .next u) ∧
        ∃ t u, exec (.sioOnClockPulses a) s = .next t ∧ exec (.sioOnClockPulses b) t = .next u ∧
          exec (.sioOnClockPulses (a + b)) s = .next u

/-- One clock pulse of a CTC without cascade links, channel by channel: a pending load is committed and uses the pulse up; a
running timer channel advances its prescaler, whose overflow counts, and a count from 1 reloads and requests; any other
channel ignores the pulse. The events are the zero-crossings, in the order of the channels (41_ctc.md R146 to R150;
decisions D6, D16, D21, D22, D23). `CascadePassesOnePulse` has the pulse of a cascaded timer. -/
def Obligations.ClockPulseAdvancesChannels : Prop :=
  ∀ s : State, (∀ i, (s.ctc.ch i).cascadeTo = none) → ∃ t : State,
    exec (.ctcOnClockPulses 1) s = .next t ∧
    t = { s with ctc := t.ctc, trace := t.trace, ctcOperated := true, reply := .unit } ∧
    t.ctc.vector = s.ctc.vector ∧
    (∀ i v, (s.ctc.ch i).pendingLoadValue = some v →
      t.ctc.ch i = { s.ctc.ch i with
        pendingLoadValue := none
        counterInit := some v
        counter := if (s.ctc.ch i).running then (s.ctc.ch i).counter else v
        prescaler := if (s.ctc.ch i).running then (s.ctc.ch i).prescaler else 0
        running := (s.ctc.ch i).running || !((s.ctc.ch i).timerMode && (s.ctc.ch i).waitForTrigger) }) ∧
    (∀ i, (s.ctc.ch i).pendingLoadValue = none → (s.ctc.ch i).running = false ∨ (s.ctc.ch i).timerMode = false →
      t.ctc.ch i = s.ctc.ch i) ∧
    (∀ i, (s.ctc.ch i).pendingLoadValue = none → (s.ctc.ch i).running = true → (s.ctc.ch i).timerMode = true →
      (s.ctc.ch i).prescaler + 1 < (s.ctc.ch i).period →
      t.ctc.ch i = { s.ctc.ch i with prescaler := (s.ctc.ch i).prescaler + 1 }) ∧
    (∀ i, (s.ctc.ch i).pendingLoadValue = none → (s.ctc.ch i).running = true → (s.ctc.ch i).timerMode = true →
      (s.ctc.ch i).period ≤ (s.ctc.ch i).prescaler + 1 → 1 < (s.ctc.ch i).counter →
      t.ctc.ch i = { s.ctc.ch i with prescaler := 0, counter := (s.ctc.ch i).counter - 1 }) ∧
    (∀ i v, (s.ctc.ch i).Crossing → (s.ctc.ch i).counterInit = some v →
      t.ctc.ch i = { s.ctc.ch i with
        prescaler := 0
        counter := v
        interruptRequested := (s.ctc.ch i).interruptRequested || (s.ctc.ch i).interruptEnabled }) ∧
    ∃ es, t.trace = s.trace ++ es ∧
      List.Sublist es [.zeroCrossing .c0, .zeroCrossing .c1, .zeroCrossing .c2, .zeroCrossing .c3] ∧
      ∀ i, Event.zeroCrossing i ∈ es ↔ (s.ctc.ch i).Crossing

/-- The period of a timer channel with time constant `v` is `v` times 16 or 256 pulses: just reloaded, it makes no
zero-crossing and no request before that many pulses, and exactly one with the last of them, where it stands just reloaded
again (60_exceptions.md R284, 41_ctc.md R148, R150; decisions D21, D23). The other channels ignore pulses here. -/
def Obligations.TimerPeriodIsConstantTimesPrescaler : Prop :=
  ∀ (s : State) (i : CtcIx) (v : Nat), 1 ≤ v → v ≤ 256 →
    (s.ctc.ch i).counterInit = some v → (s.ctc.ch i).counter = v → (s.ctc.ch i).prescaler = 0 →
    (s.ctc.ch i).pendingLoadValue = none → (s.ctc.ch i).running = true → (s.ctc.ch i).timerMode = true →
    (s.ctc.ch i).cascadeTo = none →
    (∀ j, j ≠ i → (s.ctc.ch j).pendingLoadValue = none ∧
      ((s.ctc.ch j).running = false ∨ (s.ctc.ch j).timerMode = false)) →
    (∀ k, k < v * (s.ctc.ch i).period → ∃ t, exec (.ctcOnClockPulses (BitVec.ofNat 32 k)) s = .next t ∧
      t.trace = s.trace ∧ (t.ctc.ch i).interruptRequested = (s.ctc.ch i).interruptRequested) ∧
    exec (.ctcOnClockPulses (BitVec.ofNat 32 (v * (s.ctc.ch i).period))) s = .next { s with
      ctc := s.ctc.setCh i { s.ctc.ch i with
        interruptRequested := (s.ctc.ch i).interruptRequested || (s.ctc.ch i).interruptEnabled }
      trace := s.trace ++ [.zeroCrossing i]
      ctcOperated := true
      reply := .unit }

/-- An edge of the other polarity, or at a channel that was never loaded, does nothing; a qualifying one starts a stopped
channel, and in counter mode it counts, a count from 1 being a zero-crossing (41_ctc.md R149 to R152; decisions D17, D22,
D23). The cascaded zero-crossing has its own statement. -/
def Obligations.ExternalEdgeTriggersChannel : Prop :=
  ∀ (s : State) (i : CtcIx) (rising : Bool),
    (rising ≠ (s.ctc.ch i).triggerEdgeHigh ∨ (s.ctc.ch i).counterInit = none →
      exec (.ctcExternalEdge i rising) s = .next { s with ctcOperated := true, reply := .unit }) ∧
    ∀ v, rising = (s.ctc.ch i).triggerEdgeHigh → (s.ctc.ch i).counterInit = some v →
      ((s.ctc.ch i).timerMode = true →
        exec (.ctcExternalEdge i rising) s = .next { s with
          ctc := s.ctc.setCh i { s.ctc.ch i with
            running := true, prescaler := if (s.ctc.ch i).running then (s.ctc.ch i).prescaler else 0 }
          ctcOperated := true
          reply := .unit }) ∧
      ((s.ctc.ch i).timerMode = false → 1 < (s.ctc.ch i).counter →
        exec (.ctcExternalEdge i rising) s = .next { s with
          ctc := s.ctc.setCh i { s.ctc.ch i with
            running := true
            prescaler := if (s.ctc.ch i).running then (s.ctc.ch i).prescaler else 0
            counter := (s.ctc.ch i).counter - 1 }
          ctcOperated := true
          reply := .unit }) ∧
      ((s.ctc.ch i).timerMode = false → (s.ctc.ch i).counter ≤ 1 → (s.ctc.ch i).cascadeTo = none →
        exec (.ctcExternalEdge i rising) s = .next { s with
          ctc := s.ctc.setCh i { s.ctc.ch i with
            running := true
            prescaler := if (s.ctc.ch i).running then (s.ctc.ch i).prescaler else 0
            counter := v
            interruptRequested := (s.ctc.ch i).interruptRequested || (s.ctc.ch i).interruptEnabled }
          trace := s.trace ++ [.zeroCrossing i]
          ctcOperated := true
          reply := .unit })

/-- Complete pulses are qualifying edges, one after another, whatever the polarity (41_ctc.md R153; decision D17). -/
def Obligations.ExternalPulsesAreQualifyingEdges : Prop :=
  (∀ s i, exec (.ctcExternalPulses i 0) s = .next { s with ctcOperated := true, reply := .unit }) ∧
    ∀ (s : State) (i : CtcIx) (n : Nat), ∃ t u,
      exec (.ctcExternalEdge i (s.ctc.ch i).triggerEdgeHigh) s = .next t ∧
        exec (.ctcExternalPulses i n) t = .next u ∧ exec (.ctcExternalPulses i (n + 1)) s = .next u

/-- A zero-crossing of a cascaded channel reloads and requests, then gives its successor exactly one complete pulse, then
emits its own event: the successor's events come first. First for a channel in counter mode at an edge, then for a timer at
a clock pulse that the channels other than these two ignore: a successor that ignores clock pulses takes the one pulse; one
with a pending load commits it before the pulse if its number is lower, after it if higher; a loaded timer that waits is
started, and a higher one takes its own prescaler step after it; a running timer takes its own step and ignores the pulse
(41_ctc.md R146 to R151, R154; decisions D6, D16, D17, D18, D21, D23). The wiring is one that `connectCascade` can make
(10_state.md R23 (e)). -/
def Obligations.CascadePassesOnePulse : Prop :=
  (∀ (s : State) (i j : CtcIx) (v : Nat), s.ctc.WiredOk →
    (s.ctc.ch i).counterInit = some v → (s.ctc.ch i).timerMode = false → (s.ctc.ch i).counter ≤ 1 →
    (s.ctc.ch i).cascadeTo = some j →
    ∃ u, exec (.ctcExternalPulses j 1) { s with
          ctc := s.ctc.setCh i { s.ctc.ch i with
            running := true
            prescaler := if (s.ctc.ch i).running then (s.ctc.ch i).prescaler else 0
            counter := v
            interruptRequested := (s.ctc.ch i).interruptRequested || (s.ctc.ch i).interruptEnabled } } = .next u ∧
      exec (.ctcExternalPulses i 1) s = .next { u with trace := u.trace ++ [.zeroCrossing i] }) ∧
  ∀ (s r : State) (i j : CtcIx) (v : Nat), s.ctc.WiredOk →
    (s.ctc.ch i).Crossing → (s.ctc.ch i).counterInit = some v → (s.ctc.ch i).cascadeTo = some j →
    (∀ k, k ≠ i → k ≠ j → (s.ctc.ch k).IgnoresPulses) →
    r = { s with
      ctc := s.ctc.setCh i { s.ctc.ch i with
        prescaler := 0
        counter := v
        interruptRequested := (s.ctc.ch i).interruptRequested || (s.ctc.ch i).interruptEnabled } } →
    ((s.ctc.ch j).IgnoresPulses →
      ∃ u, exec (.ctcExternalPulses j 1) r = .next u ∧
        exec (.ctcOnClockPulses 1) s = .next { u with trace := u.trace ++ [.zeroCrossing i] }) ∧
    (∀ w, (s.ctc.ch j).pendingLoadValue = some w → j.toNat < i.toNat →
      ∃ u, exec (.ctcExternalPulses j 1) { r with ctc := r.ctc.setCh j ((s.ctc.ch j).loadedWith w) } = .next u ∧
        exec (.ctcOnClockPulses 1) s = .next { u with trace := u.trace ++ [.zeroCrossing i] }) ∧
    (∀ w, (s.ctc.ch j).pendingLoadValue = some w → i.toNat < j.toNat →
      ∃ u, exec (.ctcExternalPulses j 1) r = .next u ∧
        exec (.ctcOnClockPulses 1) s = .next { u with
          ctc := u.ctc.setCh j ((u.ctc.ch j).loadedWith w), trace := u.trace ++ [.zeroCrossing i] }) ∧
    ((s.ctc.ch j).pendingLoadValue = none → (s.ctc.ch j).timerMode = true → (s.ctc.ch j).running = false →
      (s.ctc.ch j).counterInit ≠ none →
      exec (.ctcOnClockPulses 1) s = .next { r with
        ctc := r.ctc.setCh j { s.ctc.ch j with
          running := true, prescaler := if i.toNat < j.toNat then 1 else 0 }
        trace := s.trace ++ [.zeroCrossing i]
        ctcOperated := true
        reply := .unit }) ∧
    ((s.ctc.ch j).pendingLoadValue = none → (s.ctc.ch j).timerMode = true → (s.ctc.ch j).running = true →
      (s.ctc.ch j).prescaler + 1 < (s.ctc.ch j).period →
      exec (.ctcOnClockPulses 1) s = .next { r with
        ctc := r.ctc.setCh j { s.ctc.ch j with prescaler := (s.ctc.ch j).prescaler + 1 }
        trace := s.trace ++ [.zeroCrossing i]
        ctcOperated := true
        reply := .unit })

/-- A link between two different channels with free ends, that closes no cycle, before any other CTC operation, sets its two
ends; every other link is refused (41_ctc.md R155; decision D18). That the operations of the chain controller on the CTC
count as CTC operations is the model's reading (log 9). -/
def Obligations.ConnectCascadeLinksOrRefuses : Prop :=
  ∀ (s : State) (a b : CtcIx),
    (s.ctcOperated = false → a ≠ b → (s.ctc.ch a).cascadeTo = none → (s.ctc.ch b).cascadeFrom = none →
      ¬ s.ctc.Reaches b a →
      exec (.ctcConnectCascade a b) s = .next { s with
        ctc := (s.ctc.setCh a { s.ctc.ch a with cascadeTo := some b }).setCh b
          { s.ctc.ch b with cascadeFrom := some a }
        reply := .unit }) ∧
    (s.ctcOperated = true ∨ a = b ∨ (s.ctc.ch a).cascadeTo ≠ none ∨ (s.ctc.ch b).cascadeFrom ≠ none ∨
      s.ctc.Reaches b a → exec (.ctcConnectCascade a b) s = .refused .badCascade)

/-! ## PIO -/

/-- An even control byte, with no mask expected, is stored whole as the port's vector; like every control write it clears
the shared latch (42_pio.md R171, 30_encoding.md R89). -/
def Obligations.PioVectorWordIsStored : Prop :=
  ∀ (s : State) (p : Side) (b : Byte), (s.pio.port p).nextControl = .command → b.getLsbD 0 = false →
    exec (.pioWriteControl p b) s = .next { s with
      pio := ({ s.pio with resetState := false } : Pio).setPort p { s.pio.port p with vector := b }
      reply := .unit }

/-- A byte written where a mask is expected is that mask, whatever its bits: it is stored, the stored condition becomes the
one of the lines in bit mode and false outside it, and nothing is requested (42_pio.md R173, R175, R187; decisions D31,
D36). -/
def Obligations.PioMaskBytesAreStored : Prop :=
  ∀ (s : State) (p : Side) (b : Byte),
    ((s.pio.port p).nextControl = .directionMask → ∃ f : Bool,
      (f = true ↔ (s.pio.port p).mode = .bitInOut ∧
        PioPort.Fulfilled { s.pio.port p with inputDirectionMask := b }) ∧
      exec (.pioWriteControl p b) s = .next { s with
        pio := ({ s.pio with resetState := false } : Pio).setPort p { s.pio.port p with
          inputDirectionMask := b, nextControl := .command, conditionCurrentlyFulfilled := f }
        reply := .unit }) ∧
    ((s.pio.port p).nextControl = .interruptMask → ∃ f : Bool,
      (f = true ↔ (s.pio.port p).mode = .bitInOut ∧ PioPort.Fulfilled { s.pio.port p with bitMask := b }) ∧
      exec (.pioWriteControl p b) s = .next { s with
        pio := ({ s.pio with resetState := false } : Pio).setPort p { s.pio.port p with
          bitMask := b, nextControl := .command, conditionCurrentlyFulfilled := f }
        reply := .unit })

/-- A mode word sets the mode and what the next control byte is, and clears `ready`, but for port B while port A runs
`ByteInOut`; port A entering or leaving `ByteInOut` clears port B's `ready` too; `ByteInOut` on port B is refused
(42_pio.md R172, R187, R194; decisions D30, D33, D34, D36). -/
def Obligations.PioModeWordSetsMode : Prop :=
  ∀ (s : State) (b : Byte) (m : PioMode), b.extractLsb' 0 4 = 0xF → ModeCode b m →
    (s.pio.portA.nextControl = .command → ∃ f : Bool,
      (f = true ↔ m = .bitInOut ∧ s.pio.portA.Fulfilled) ∧
      exec (.pioWriteControl .a b) s = .next { s with
        pio :=
          { resetState := false
            portA := { s.pio.portA with
              mode := m
              ready := false
              nextControl := if m = .bitInOut then .directionMask else .command
              conditionCurrentlyFulfilled := f }
            portB :=
              if s.pio.portA.mode = .byteInOut ∨ m = .byteInOut then { s.pio.portB with ready := false }
              else s.pio.portB }
        reply := .unit }) ∧
    (s.pio.portB.nextControl = .command → m ≠ .byteInOut → ∃ f : Bool,
      (f = true ↔ m = .bitInOut ∧ s.pio.portB.Fulfilled) ∧
      exec (.pioWriteControl .b b) s = .next { s with
        pio :=
          { resetState := false
            portA := s.pio.portA
            portB := { s.pio.portB with
              mode := m
              ready := if s.pio.portA.mode = .byteInOut then s.pio.portB.ready else false
              nextControl := if m = .bitInOut then .directionMask else .command
              conditionCurrentlyFulfilled := f } }
        reply := .unit }) ∧
    (s.pio.portB.nextControl = .command → m = .byteInOut →
      exec (.pioWriteControl .b b) s = .refused .portBBidirectional)

/-- An interrupt control word sets the enable and the condition, in bit mode may announce a mask, and emits an event when
the enable changes; an enable word sets the enable alone, with the same events; a reserved word only clears the latch
(42_pio.md R174, R176, R177, R187, 30_encoding.md R87, R88, R92; decisions D30, D36, D38, D43). -/
def Obligations.PioInterruptWordsSetEnable : Prop :=
  ∀ (s : State) (p : Side) (b : Byte), (s.pio.port p).nextControl = .command →
    (b.extractLsb' 0 4 = 0x7 → ∃ f : Bool,
      (f = true ↔ (s.pio.port p).mode = .bitInOut ∧
        PioPort.Fulfilled { s.pio.port p with bitsAndCombined := b.getLsbD 6, fireOnHigh := b.getLsbD 5 }) ∧
      exec (.pioWriteControl p b) s = .next { s with
        pio := ({ s.pio with resetState := false } : Pio).setPort p { s.pio.port p with
          intEnabled := b.getLsbD 7
          bitsAndCombined := b.getLsbD 6
          fireOnHigh := b.getLsbD 5
          nextControl :=
            if b.getLsbD 4 = true ∧ (s.pio.port p).mode = .bitInOut then .interruptMask else .command
          conditionCurrentlyFulfilled := f }
        trace := s.trace ++
          if b.getLsbD 7 = true ∧ (s.pio.port p).intEnabled = false then [.interruptEnabled p]
          else if b.getLsbD 7 = false ∧ (s.pio.port p).intEnabled = true then [.interruptDisabled p] else []
        reply := .unit }) ∧
    (b.extractLsb' 0 4 = 0x3 →
      exec (.pioWriteControl p b) s = .next { s with
        pio := ({ s.pio with resetState := false } : Pio).setPort p { s.pio.port p with intEnabled := b.getLsbD 7 }
        trace := s.trace ++
          if b.getLsbD 7 = true ∧ (s.pio.port p).intEnabled = false then [.interruptEnabled p]
          else if b.getLsbD 7 = false ∧ (s.pio.port p).intEnabled = true then [.interruptDisabled p] else []
        reply := .unit }) ∧
    (b.extractLsb' 0 4 ∈ [(0x1 : BitVec 4), 0x5, 0x9, 0xB, 0xD] →
      exec (.pioWriteControl p b) s = .next { s with pio := { s.pio with resetState := false }, reply := .unit })

/-- A CPU data write stores the byte; with the latch clear an output mode raises `ready` and offers the byte, bit mode emits
the change and checks the condition, requesting only on its transition, and `ByteIn` does nothing more (42_pio.md R178,
R179, R186; decisions D32, D36, D38, D39, D45). That port B in `ByteOut` raises its `ready` also while port A runs
`ByteInOut` is the model's choice (log 22). -/
def Obligations.PioDataWriteStoresAndOffers : Prop :=
  ∀ (s : State) (p : Side) (v : Byte),
    (s.pio.resetState = true ∨ (s.pio.port p).mode = .byteIn →
      exec (.pioWriteData p v) s = .next { s with
        pio := s.pio.setPort p { s.pio.port p with outputRegister := v }, reply := .unit }) ∧
    (s.pio.resetState = false → (s.pio.port p).mode = .byteOut ∨ (s.pio.port p).mode = .byteInOut →
      exec (.pioWriteData p v) s = .next { s with
        pio := s.pio.setPort p { s.pio.port p with outputRegister := v, ready := true }
        trace := s.trace ++ [.outputAvailable p v]
        reply := .unit }) ∧
    (s.pio.resetState = false → (s.pio.port p).mode = .bitInOut → ∃ f : Bool,
      (f = true ↔ PioPort.Fulfilled { s.pio.port p with outputRegister := v }) ∧
      exec (.pioWriteData p v) s = .next { s with
        pio := s.pio.setPort p { s.pio.port p with
          outputRegister := v
          intRequested := (s.pio.port p).intRequested ||
            (f && !(s.pio.port p).conditionCurrentlyFulfilled && (s.pio.port p).intEnabled)
          conditionCurrentlyFulfilled := f }
        trace := s.trace ++ [.outputChanged p v]
        reply := .unit })

/-- A CPU data read returns the output register in `ByteOut`, the input register in the input modes and the lines in bit
mode; it clears the fresh bits, and completes the input handshake: `ready` of the port, or of port B for port A in
`ByteInOut` (42_pio.md R178, R180, R185; decisions D32, D33, D37, D39, D41). Port B is never in `ByteInOut`
(10_state.md R27 (b)). -/
def Obligations.PioDataReadReturnsAndAcknowledges : Prop :=
  ∀ (s : State) (p : Side),
    ((s.pio.port p).mode = .byteOut →
      exec (.pioReadData p) s = .next { s with reply := .byte (s.pio.port p).outputRegister }) ∧
    ((s.pio.port p).mode = .byteIn → s.pio.resetState = true ∨ (p = .b ∧ s.pio.portA.mode = .byteInOut) →
      exec (.pioReadData p) s = .next { s with
        pio := s.pio.setPort p { s.pio.port p with valueMask := 0x00 }
        reply := .byte (s.pio.port p).inputRegister }) ∧
    ((s.pio.port p).mode = .byteIn → s.pio.resetState = false → ¬ (p = .b ∧ s.pio.portA.mode = .byteInOut) →
      exec (.pioReadData p) s = .next { s with
        pio := s.pio.setPort p { s.pio.port p with valueMask := 0x00, ready := false }
        trace := s.trace ++ [.readyForInput p]
        reply := .byte (s.pio.port p).inputRegister }) ∧
    (p = .a → (s.pio.port p).mode = .byteInOut → s.pio.resetState = true →
      exec (.pioReadData p) s = .next { s with
        pio := { s.pio with portA := { s.pio.portA with valueMask := 0x00 } }
        reply := .byte s.pio.portA.inputRegister }) ∧
    (p = .a → (s.pio.port p).mode = .byteInOut → s.pio.resetState = false →
      exec (.pioReadData p) s = .next { s with
        pio := { s.pio with
          portA := { s.pio.portA with valueMask := 0x00 }, portB := { s.pio.portB with ready := false } }
        trace := s.trace ++ [.readyForInput .a]
        reply := .byte s.pio.portA.inputRegister }) ∧
    ((s.pio.port p).mode = .bitInOut → ∃ v : Byte, (∀ k, k < 8 → v.getLsbD k = (s.pio.port p).line k) ∧
      exec (.pioReadData p) s = .next { s with
        pio := s.pio.setPort p { s.pio.port p with valueMask := 0x00 }, reply := .byte v })

/-- A put stores the driven lines and marks them fresh; with the latch clear it raises `ready` (port B's for port A in
`ByteInOut`), a strobe requests if enabled, port B's handshake is dead while port A runs `ByteInOut`, and bit mode checks
the condition (42_pio.md R178, R182, R184 to R186, R188; decisions D32, D33, D35, D36, D39, D41, D44). Port B is never in
`ByteInOut` (10_state.md R27 (b)). -/
def Obligations.PioPutStoresAndSignals : Prop :=
  ∀ (s : State) (p : Side) (v m stored : Byte) (strobe : Bool),
    (∀ k, stored.getLsbD k = if m.getLsbD k then v.getLsbD k else (s.pio.port p).inputRegister.getLsbD k) →
    (s.pio.resetState = true ∨ (s.pio.port p).mode = .byteOut ∨
        ((s.pio.port p).mode = .byteIn ∧ p = .b ∧ s.pio.portA.mode = .byteInOut) →
      exec (.pioPutInValue p v m strobe) s = .next { s with
        pio := s.pio.setPort p { s.pio.port p with
          inputRegister := stored, valueMask := (s.pio.port p).valueMask ||| m }
        reply := .unit }) ∧
    (s.pio.resetState = false → (s.pio.port p).mode = .byteIn → ¬ (p = .b ∧ s.pio.portA.mode = .byteInOut) →
      exec (.pioPutInValue p v m strobe) s = .next { s with
        pio := s.pio.setPort p { s.pio.port p with
          inputRegister := stored
          valueMask := (s.pio.port p).valueMask ||| m
          ready := true
          intRequested := (s.pio.port p).intRequested || (strobe && (s.pio.port p).intEnabled) }
        reply := .unit }) ∧
    (p = .a → s.pio.resetState = false → (s.pio.port p).mode = .byteInOut →
      exec (.pioPutInValue p v m strobe) s = .next { s with
        pio := { s.pio with
          portA := { s.pio.portA with
            inputRegister := stored
            valueMask := s.pio.portA.valueMask ||| m
            intRequested := s.pio.portA.intRequested || (strobe && s.pio.portA.intEnabled) }
          portB := { s.pio.portB with ready := true } }
        reply := .unit }) ∧
    (s.pio.resetState = false → (s.pio.port p).mode = .bitInOut → ∃ f : Bool,
      (f = true ↔ PioPort.Fulfilled { s.pio.port p with inputRegister := stored }) ∧
      exec (.pioPutInValue p v m strobe) s = .next { s with
        pio := s.pio.setPort p { s.pio.port p with
          inputRegister := stored
          valueMask := (s.pio.port p).valueMask ||| m
          intRequested := (s.pio.port p).intRequested ||
            (f && !(s.pio.port p).conditionCurrentlyFulfilled && (s.pio.port p).intEnabled)
          conditionCurrentlyFulfilled := f }
        reply := .unit })

/-- A fetch returns 0xFF while the latch is set or the port is an input, else the output register; only a strobe in an
output mode changes anything: it clears `ready` and requests if enabled, but not on port B while port A runs `ByteInOut`
(42_pio.md R178, R183 to R185, R188; decisions D32, D33, D35, D39). Port B is never in `ByteInOut` (10_state.md
R27 (b)). -/
def Obligations.PioFetchReturnsAndAcknowledges : Prop :=
  ∀ (s : State) (p : Side) (strobe : Bool),
    (s.pio.resetState = true ∨ (s.pio.port p).mode = .byteIn →
      exec (.pioFetchOutValue p strobe) s = .next { s with reply := .byte 0xFF }) ∧
    (s.pio.resetState = false → (s.pio.port p).mode = .bitInOut ∨
        ((s.pio.port p).mode = .byteOut ∧ (strobe = false ∨ (p = .b ∧ s.pio.portA.mode = .byteInOut))) ∨
        ((s.pio.port p).mode = .byteInOut ∧ p = .a ∧ strobe = false) →
      exec (.pioFetchOutValue p strobe) s = .next { s with reply := .byte (s.pio.port p).outputRegister }) ∧
    (s.pio.resetState = false → strobe = true →
      ((s.pio.port p).mode = .byteOut ∧ ¬ (p = .b ∧ s.pio.portA.mode = .byteInOut)) ∨
        ((s.pio.port p).mode = .byteInOut ∧ p = .a) →
      exec (.pioFetchOutValue p strobe) s = .next { s with
        pio := s.pio.setPort p { s.pio.port p with
          ready := false, intRequested := (s.pio.port p).intRequested || (s.pio.port p).intEnabled }
        reply := .byte (s.pio.port p).outputRegister })

/-! ## SIO -/

/-- With a pointer other than 0 a control byte is stored in that register, every other register stays, the pointer goes back
to 0, and selecting first-character mode arms it (43_sio.md R210, R219; decision D63). -/
def Obligations.SioRegisterByteIsStored : Prop :=
  ∀ (s : State) (c : Side) (b : Byte), (s.sio.ch c).wr.wr0.extractLsb' 0 3 ≠ 0 → ∃ w : WriteRegs,
    (∀ n : BitVec 3, w.get n =
      if n = (s.sio.ch c).wr.wr0.extractLsb' 0 3 then b
      else if n = 0 then (s.sio.ch c).wr.wr0 &&& 0xF8 else (s.sio.ch c).wr.get n) ∧
    exec (.sioWriteControl c b) s = .next { s with
      sio := s.sio.setCh c { s.sio.ch c with
        wr := w
        rxFirstCharArmed := (s.sio.ch c).rxFirstCharArmed ||
          (decide ((s.sio.ch c).wr.wr0.extractLsb' 0 3 = 1) && decide (b.extractLsb' 3 2 = 1)) }
      reply := .unit }

/-- With the pointer at 0 a control byte is stored in `wr[0]` and its command runs: 0 and 1 do nothing more, 2 drops the
external request, 4 arms the first character, 5 drops the transmit request, 6 clears the overrun latch (43_sio.md R210 to
R213, R215 to R217; decisions D50, D62, D63, D65). -/
def Obligations.SioCommandsActOnChannel : Prop :=
  ∀ (s : State) (c : Side) (b : Byte), (s.sio.ch c).wr.wr0.extractLsb' 0 3 = 0 →
    b.extractLsb' 3 3 ∈ [(0 : BitVec 3), 1, 2, 4, 5, 6] →
    exec (.sioWriteControl c b) s = .next { s with
      sio := s.sio.setCh c { s.sio.ch c with
        wr := { (s.sio.ch c).wr with wr0 := b }
        extRequested := if b.extractLsb' 3 3 = 2 then false else (s.sio.ch c).extRequested
        rxFirstCharArmed := if b.extractLsb' 3 3 = 4 then true else (s.sio.ch c).rxFirstCharArmed
        txRequested := if b.extractLsb' 3 3 = 5 then false else (s.sio.ch c).txRequested
        rxOverrunLatch := if b.extractLsb' 3 3 = 6 then false else (s.sio.ch c).rxOverrunLatch }
      reply := .unit }

/-- Command 3 puts the channel in the state a warm reset gives it, the pointer included; command 7 on channel A finishes an
interrupt of the device, and on channel B only stores the byte (43_sio.md R214, R218; decisions D50, D67, D68). -/
def Obligations.SioChannelResetAndSoftwareReti : Prop :=
  ∀ (s : State) (c : Side) (b : Byte), (s.sio.ch c).wr.wr0.extractLsb' 0 3 = 0 →
    (b.extractLsb' 3 3 = 3 →
      exec (.sioWriteControl c b) s = .next { s with
        sio := s.sio.setCh c { s.sio.ch c with
          wr := ⟨0x00, 0x00, (s.sio.ch c).wr.wr2, 0x00, 0x00, 0x00, 0x00, 0x00⟩
          receiveFifoLen := 0
          rxOverrunLatch := false
          txBufferEmpty := true
          txBitsRemaining := 0
          txDivAcc := 0
          rxBitsRemaining := 0
          rxDivAcc := 0
          rxRequested := false
          rxAccepted := false
          txRequested := false
          txAccepted := false
          extRequested := false
          extAccepted := false
          rxFirstCharArmed := false }
        reply := .unit }) ∧
    (b.extractLsb' 3 3 = 7 → c = .a → ∃ t,
      exec .sioFinish { s with
        sio := s.sio.setCh .a { s.sio.ch .a with wr := { (s.sio.ch .a).wr with wr0 := b } } } = .next t ∧
      exec (.sioWriteControl c b) s = .next t) ∧
    (b.extractLsb' 3 3 = 7 → c = .b →
      exec (.sioWriteControl c b) s = .next { s with
        sio := s.sio.setCh c { s.sio.ch c with wr := { (s.sio.ch c).wr with wr0 := b } }, reply := .unit })

/-- `setReg` of a register 1 to 7 is the pointer byte and then the value, so that with the pointer at 0 the register holds
the value and the pointer is 0 after it (30_encoding.md R108; decision D9). That it is one step and refuses register 0 is
the model's choice (log 13), and so is that the two writes are performed with the pointer not at 0 (log 23). -/
def Obligations.SetRegIsTwoControlWrites : Prop :=
  ∀ (s : State) (c : Side) (n : BitVec 3) (b : Byte),
    (n = 0 → exec (.sioSetReg c n b) s = .refused .indexOutOfRange) ∧
    (n ≠ 0 → ∃ t u, exec (.sioWriteControl c (n.setWidth 8)) s = .next t ∧
      exec (.sioWriteControl c b) t = .next u ∧ exec (.sioSetReg c n b) s = .next u ∧
      ((s.sio.ch c).wr.wr0.extractLsb' 0 3 = 0 →
        (u.sio.ch c).wr.get n = b ∧ (u.sio.ch c).wr.wr0 = 0x00 ∧
          ∀ m, m ≠ 0 → m ≠ n → (u.sio.ch c).wr.get m = (s.sio.ch c).wr.get m))

/-- A control read, which is also what the two status rows stand for, returns the status byte the pointer addresses, or a
free byte above register 1, and the pointer goes back to 0 (43_sio.md R220 to R222, 30_encoding.md R101 to R103; decisions
D51, D56, D57, D65; log 4, log 6). The free byte is any byte: nothing is stated of it. -/
def Obligations.SioControlReadReturnsStatus : Prop :=
  ∀ (s : State) (c : Side) (op : Instr), op = .sioReadControl c ∨ op = .sioRr0 c ∨ op = .sioRr1 c →
    ∃ (v : Byte) (n : Nat), exec op s = .next { s with
      sio := s.sio.setCh c { s.sio.ch c with
        wr := { (s.sio.ch c).wr with wr0 := (s.sio.ch c).wr.wr0 &&& 0xF8 } }
      reply := .byte v
      draws := n } ∧
    ((s.sio.ch c).wr.wr0.extractLsb' 0 3 = 0 → IsRr0 s c v ∧ n = s.draws) ∧
    ((s.sio.ch c).wr.wr0.extractLsb' 0 3 = 1 → IsRr1 s c v ∧ n = s.draws) ∧
    ((s.sio.ch c).wr.wr0.extractLsb' 0 3 ≠ 0 → (s.sio.ch c).wr.wr0.extractLsb' 0 3 ≠ 1 →
      v = Config.freeByte s.draws ∧ n = s.draws + 1)

/-- The PIO control read and a data read of an empty FIFO return a free byte, the next one of the run, and change nothing
else (42_pio.md R181, 43_sio.md R224, 00_scope.md R10; decisions D3, D37, D69; log 6). -/
def Obligations.UnspecifiedReadsReturnAFreeByte : Prop :=
  (∀ s p, exec (.pioReadControl p) s = .next { s with
      reply := .byte (Config.freeByte s.draws), draws := s.draws + 1 }) ∧
    ∀ s c, (s.sio.ch c).receiveFifoLen = 0 → exec (.sioReadData c) s = .next { s with
      reply := .byte (Config.freeByte s.draws), draws := s.draws + 1 }

/-- A CPU data write fills the transmit buffer; a data read of a FIFO that holds something takes its oldest entry, the
others moving down (43_sio.md R223, R224; decisions D64, D69). -/
def Obligations.SioDataMovesThroughBuffers : Prop :=
  (∀ s c v, exec (.sioWriteData c v) s = .next { s with
      sio := s.sio.setCh c { s.sio.ch c with txBuffer := v, txBufferEmpty := false }, reply := .unit }) ∧
    ∀ s c, 0 < (s.sio.ch c).receiveFifoLen → exec (.sioReadData c) s = .next { s with
      sio := s.sio.setCh c { s.sio.ch c with
        receiveFifo :=
          ⟨(s.sio.ch c).receiveFifo.e1, (s.sio.ch c).receiveFifo.e2, (s.sio.ch c).receiveFifo.e2⟩
        receiveFifoLen := (s.sio.ch c).receiveFifoLen - 1 }
      reply := .byte (s.sio.ch c).receiveFifo.e0.value }

/-- `available` returns how many entries the FIFO holds, 0 to 3 in every state with the invariants, and changes nothing
(43_sio.md R225). -/
def Obligations.AvailableReturnsFifoLength : Prop :=
  ∀ (s : State) (c : Side),
    exec (.sioAvailable c) s = .next { s with reply := .count (s.sio.ch c).receiveFifoLen } ∧
      (s.Inv → (s.sio.ch c).receiveFifoLen ≤ 3)

/-- A usable, idle receiver takes a byte and answers true: the byte, a whole frame of shift clocks, and a divider at 0;
otherwise the byte is lost and the answer is false (43_sio.md R226 to R228; decisions D58, D59, D60). -/
def Obligations.PutToReceiverStartsFrame : Prop :=
  ∀ (s : State) (c : Side) (v : Byte),
    (RxUsable (s.sio.ch c) → (s.sio.ch c).rxBitsRemaining = 0 → ∃ width frame,
      RxWidth (s.sio.ch c) width ∧ FrameClocks (s.sio.ch c) width frame ∧
      exec (.sioPutToReceiver c v) s = .next { s with
        sio := s.sio.setCh c { s.sio.ch c with rxShiftBuffer := v, rxBitsRemaining := frame, rxDivAcc := 0 }
        reply := .bool true }) ∧
    (¬ RxUsable (s.sio.ch c) ∨ 0 < (s.sio.ch c).rxBitsRemaining →
      exec (.sioPutToReceiver c v) s = .next { s with reply := .bool false })

/-- One pulse of the receive clock: ignored when idle; a step of the divider; at its end a step of the frame; and at the
frame's end the masked byte enters the FIFO, or replaces its last entry with the overrun tag, and requests as the mode
says (43_sio.md R229 to R231; decisions D61, D62, D63). The FIFO holds at most three (10_state.md R31). -/
def Obligations.ReceivePulseShiftsOrCompletes : Prop :=
  ∀ (s : State) (c : Side) (div width : Nat) (v : Byte), (s.sio.ch c).receiveFifoLen ≤ 3 →
    ClockDivisor (s.sio.ch c) div → RxWidth (s.sio.ch c) width → LowBits width (s.sio.ch c).rxShiftBuffer v →
    ((s.sio.ch c).rxBitsRemaining = 0 → exec (.sioClockPulseReceiver c 1) s = .next { s with reply := .unit }) ∧
    (0 < (s.sio.ch c).rxBitsRemaining → (s.sio.ch c).rxDivAcc + 1 < div →
      exec (.sioClockPulseReceiver c 1) s = .next { s with
        sio := s.sio.setCh c { s.sio.ch c with rxDivAcc := (s.sio.ch c).rxDivAcc + 1 }, reply := .unit }) ∧
    (1 < (s.sio.ch c).rxBitsRemaining → div ≤ (s.sio.ch c).rxDivAcc + 1 →
      exec (.sioClockPulseReceiver c 1) s = .next { s with
        sio := s.sio.setCh c { s.sio.ch c with
          rxDivAcc := 0, rxBitsRemaining := (s.sio.ch c).rxBitsRemaining - 1 }
        reply := .unit }) ∧
    ((s.sio.ch c).rxBitsRemaining = 1 → div ≤ (s.sio.ch c).rxDivAcc + 1 →
      exec (.sioClockPulseReceiver c 1) s = .next { s with
        sio := s.sio.setCh c { s.sio.ch c with
          rxDivAcc := 0
          rxBitsRemaining := 0
          receiveFifo :=
            if (s.sio.ch c).receiveFifoLen = 0 then { (s.sio.ch c).receiveFifo with e0 := ⟨v, false⟩ }
            else if (s.sio.ch c).receiveFifoLen = 1 then { (s.sio.ch c).receiveFifo with e1 := ⟨v, false⟩ }
            else { (s.sio.ch c).receiveFifo with e2 := ⟨v, decide ((s.sio.ch c).receiveFifoLen = 3)⟩ }
          receiveFifoLen := if (s.sio.ch c).receiveFifoLen = 3 then 3 else (s.sio.ch c).receiveFifoLen + 1
          rxOverrunLatch := (s.sio.ch c).rxOverrunLatch || decide ((s.sio.ch c).receiveFifoLen = 3)
          rxRequested := (s.sio.ch c).rxRequested ||
            (if (s.sio.ch c).wr.wr1.extractLsb' 3 2 = 0 then false
              else if (s.sio.ch c).wr.wr1.extractLsb' 3 2 = 1 then (s.sio.ch c).rxFirstCharArmed else true)
          rxFirstCharArmed :=
            if (s.sio.ch c).wr.wr1.extractLsb' 3 2 = 1 then false else (s.sio.ch c).rxFirstCharArmed }
        reply := .unit })

/-- One pulse of the transmit clock: ignored with nothing to send or no usable timing; else a frame starts if none is under
way, and the pulse is a step of the divider, a step of the frame, or the end of the frame, which empties the buffer,
requests if enabled and emits the masked byte (43_sio.md R226, R227, R232, R233; decisions D58, D59, D61, D64, D72). -/
def Obligations.TransmitPulseShiftsOrCompletes : Prop :=
  ∀ (s : State) (c : Side),
    ((s.sio.ch c).txBufferEmpty = true ∨ ¬ TxUsable (s.sio.ch c) →
      exec (.sioClockPulseSender c 1) s = .next { s with reply := .unit }) ∧
    ∀ (div width frame bits acc : Nat) (v : Byte), ClockDivisor (s.sio.ch c) div → TxWidth (s.sio.ch c) width →
      FrameClocks (s.sio.ch c) width frame → LowBits width (s.sio.ch c).txBuffer v →
      bits = (if (s.sio.ch c).txBitsRemaining = 0 then frame else (s.sio.ch c).txBitsRemaining) →
      acc = (if (s.sio.ch c).txBitsRemaining = 0 then 0 else (s.sio.ch c).txDivAcc) →
      (s.sio.ch c).txBufferEmpty = false → TxUsable (s.sio.ch c) →
      (acc + 1 < div →
        exec (.sioClockPulseSender c 1) s = .next { s with
          sio := s.sio.setCh c { s.sio.ch c with txBitsRemaining := bits, txDivAcc := acc + 1 }, reply := .unit }) ∧
      (div ≤ acc + 1 → 1 < bits →
        exec (.sioClockPulseSender c 1) s = .next { s with
          sio := s.sio.setCh c { s.sio.ch c with txBitsRemaining := bits - 1, txDivAcc := 0 }, reply := .unit }) ∧
      (div ≤ acc + 1 → bits = 1 →
        exec (.sioClockPulseSender c 1) s = .next { s with
          sio := s.sio.setCh c { s.sio.ch c with
            txBitsRemaining := 0
            txDivAcc := 0
            txBufferEmpty := true
            txRequested := (s.sio.ch c).txRequested || (s.sio.ch c).wr.wr1.getLsbD 1 }
          trace := s.trace ++ [.byteTransmitted c v]
          reply := .unit })

/-- The pulses of a batch of a shift clock come one at a time; one system clock pulse is a pulse of A's receiver, A's
sender, B's receiver and B's sender in that order, each only if that shifter is on the system clock (43_sio.md R229, R232,
R236, 40_contracts.md R121; decisions D6, D61, D70). -/
def Obligations.ShiftClocksComeOneAtATime : Prop :=
  (∀ s c, exec (.sioClockPulseReceiver c 0) s = .next { s with reply := .unit } ∧
      exec (.sioClockPulseSender c 0) s = .next { s with reply := .unit }) ∧
    (∀ s c n, (∃ t u, exec (.sioClockPulseReceiver c 1) s = .next t ∧ exec (.sioClockPulseReceiver c n) t = .next u ∧
          exec (.sioClockPulseReceiver c (n + 1)) s = .next u) ∧
        ∃ t u, exec (.sioClockPulseSender c 1) s = .next t ∧ exec (.sioClockPulseSender c n) t = .next u ∧
          exec (.sioClockPulseSender c (n + 1)) s = .next u) ∧
    ∀ s : State, ∃ t u v w,
      exec (.sioClockPulseReceiver .a (if s.wiring.clocksA.rx = .systemClock then 1 else 0)) s = .next t ∧
        exec (.sioClockPulseSender .a (if s.wiring.clocksA.tx = .systemClock then 1 else 0)) t = .next u ∧
        exec (.sioClockPulseReceiver .b (if s.wiring.clocksB.rx = .systemClock then 1 else 0)) u = .next v ∧
        exec (.sioClockPulseSender .b (if s.wiring.clocksB.tx = .systemClock then 1 else 0)) v = .next w ∧
        exec (.sioOnClockPulses 1) s = .next w

/-- A byte put to a usable, idle receiver arrives exactly at the pulse numbered frame times divisor: before it nothing the
CPU can see has changed, and with it the FIFO, which has room, holds one more entry, the masked byte last (43_sio.md R226
to R230; decisions D58 to D62). -/
def Obligations.ReceivedByteArrivesAfterItsFrame : Prop :=
  ∀ (s t : State) (c : Side) (v w : Byte) (div width frame : Nat), RxUsable (s.sio.ch c) →
    (s.sio.ch c).rxBitsRemaining = 0 → (s.sio.ch c).receiveFifoLen < 3 → ClockDivisor (s.sio.ch c) div →
    RxWidth (s.sio.ch c) width → FrameClocks (s.sio.ch c) width frame → LowBits width v w →
    exec (.sioPutToReceiver c v) s = .next t →
    (∀ k, k < frame * div → ∃ u, exec (.sioClockPulseReceiver c k) t = .next u ∧
      (u.sio.ch c).receiveFifoLen = (s.sio.ch c).receiveFifoLen ∧ (u.sio.ch c).receiveFifo = (s.sio.ch c).receiveFifo ∧
      (u.sio.ch c).rxRequested = (s.sio.ch c).rxRequested ∧ 0 < (u.sio.ch c).rxBitsRemaining) ∧
    ∃ u, exec (.sioClockPulseReceiver c (frame * div)) t = .next u ∧ (u.sio.ch c).rxBitsRemaining = 0 ∧
      (u.sio.ch c).receiveFifoLen = (s.sio.ch c).receiveFifoLen + 1 ∧
      (u.sio.ch c).receiveFifo = (s.sio.ch c).receiveFifo.set (s.sio.ch c).receiveFifoLen ⟨w, false⟩

/-- A byte written to a usable transmitter with no frame under way leaves exactly at the sender pulse numbered frame times
divisor: before it no event is emitted, and with it exactly one, the masked byte (43_sio.md R226, R227, R232, R233;
decisions D58, D59, D61, D64, D72). -/
def Obligations.WrittenByteLeavesAfterItsFrame : Prop :=
  ∀ (s t : State) (c : Side) (v w : Byte) (div width frame : Nat), TxUsable (s.sio.ch c) →
    (s.sio.ch c).txBitsRemaining = 0 → ClockDivisor (s.sio.ch c) div → TxWidth (s.sio.ch c) width →
    FrameClocks (s.sio.ch c) width frame → LowBits width v w → exec (.sioWriteData c v) s = .next t →
    (∀ k, k < frame * div → ∃ u, exec (.sioClockPulseSender c k) t = .next u ∧ u.trace = s.trace ∧
      (u.sio.ch c).txBufferEmpty = false) ∧
    ∃ u, exec (.sioClockPulseSender c (frame * div)) t = .next u ∧ u.trace = s.trace ++ [.byteTransmitted c w] ∧
      (u.sio.ch c).txBufferEmpty = true ∧ (u.sio.ch c).txBitsRemaining = 0

/-- A report of a modem line stores the level; only a change from a known level, with the external interrupt enabled,
requests (43_sio.md R234, R235; decision D65). -/
def Obligations.ModemLineChangeRequests : Prop :=
  ∀ (s : State) (c : Side) (level : Bool),
    exec (.sioSetClearToSend c level) s = .next { s with
      sio := s.sio.setCh c { s.sio.ch c with
        cts := some level
        extRequested := (s.sio.ch c).extRequested ||
          (decide ((s.sio.ch c).cts = some (!level)) && (s.sio.ch c).wr.wr1.getLsbD 0) }
      reply := .unit } ∧
    exec (.sioSetDataCarrierDetect c level) s = .next { s with
      sio := s.sio.setCh c { s.sio.ch c with
        dcd := some level
        extRequested := (s.sio.ch c).extRequested ||
          (decide ((s.sio.ch c).dcd = some (!level)) && (s.sio.ch c).wr.wr1.getLsbD 0) }
      reply := .unit }

/-! ## Reset, reports and the interrupt sources -/

/-- A reset of each device, power-on and warm: what it clears and what a warm one keeps; it emits nothing
(70_reset_and_hazards.md R300, R302 to R306; decisions D24, D39, D42, D68, D90, D92). -/
def Obligations.ResetClearsDevices : Prop :=
  (∀ s powerOn, ∃ d : Ctc,
    exec (.ctcReset powerOn) s = .next { s with ctc := d, ctcOperated := true, reply := .unit } ∧
    d.vector = (if powerOn then 0x00 else s.ctc.vector) ∧
    ∀ i, d.ch i =
      { counterInit := none, counter := if powerOn then 0 else (s.ctc.ch i).counter, prescaler := 0,
        pendingLoadValue := none, timerMode := true, prescaler256 := false, triggerEdgeHigh := false,
        waitForTrigger := false, expectTimeConstant := false, running := false, interruptEnabled := false,
        interruptRequested := false, interruptAccepted := false, cascadeFrom := (s.ctc.ch i).cascadeFrom,
        cascadeTo := (s.ctc.ch i).cascadeTo }) ∧
    (∀ s powerOn, ∃ d : Pio,
      exec (.pioReset powerOn) s = .next { s with pio := d, reply := .unit } ∧ d.resetState = true ∧
      ∀ p, d.port p =
        { mode := .byteIn, outputRegister := if powerOn then 0x00 else (s.pio.port p).outputRegister,
          inputRegister := if powerOn then 0x00 else (s.pio.port p).inputRegister, inputDirectionMask := 0xFF,
          valueMask := 0x00, ready := false, intEnabled := false, intRequested := false, intAccepted := false,
          vector := if powerOn then 0x00 else (s.pio.port p).vector, bitMask := 0xFF, fireOnHigh := false,
          bitsAndCombined := false, conditionCurrentlyFulfilled := false, nextControl := .command }) ∧
    ∀ s powerOn, ∃ d : Sio,
      exec (.sioReset powerOn) s = .next { s with sio := d, reply := .unit } ∧
      ∀ c, d.ch c =
        { wr := ⟨0x00, 0x00, if powerOn then 0x00 else (s.sio.ch c).wr.wr2, 0x00, 0x00, 0x00, 0x00, 0x00⟩,
          rxOverrunLatch := false,
          receiveFifo :=
            if powerOn then ⟨⟨0x00, false⟩, ⟨0x00, false⟩, ⟨0x00, false⟩⟩ else (s.sio.ch c).receiveFifo,
          receiveFifoLen := 0, txBuffer := if powerOn then 0x00 else (s.sio.ch c).txBuffer, txBufferEmpty := true,
          txBitsRemaining := 0, txDivAcc := 0,
          rxShiftBuffer := if powerOn then 0x00 else (s.sio.ch c).rxShiftBuffer, rxBitsRemaining := 0, rxDivAcc := 0,
          cts := if powerOn then none else (s.sio.ch c).cts, dcd := if powerOn then none else (s.sio.ch c).dcd,
          rxRequested := false, rxAccepted := false, txRequested := false, txAccepted := false,
          extRequested := false, extAccepted := false, rxFirstCharArmed := false }

/-- A snapshot returns the complete device, for the SIO with the four status bytes a read would assemble, and changes
nothing (40_contracts.md R128, 41_ctc.md R160, 42_pio.md R193, 43_sio.md R241; decisions D7, D71). -/
def Obligations.SnapshotReportsWholeDevice : Prop :=
  ∀ s : State,
    exec .ctcStatusSnapshot s = .next { s with ctcOperated := true, reply := .ctcReport s.ctc } ∧
      exec .pioStatusSnapshot s = .next { s with reply := .pioReport s.pio } ∧
      ∃ a0 a1 b0 b1, IsRr0 s .a a0 ∧ IsRr1 s .a a1 ∧ IsRr0 s .b b0 ∧ IsRr1 s .b b1 ∧
        exec .sioStatusSnapshot s = .next { s with reply := .sioReport s.sio a0 a1 b0 b1 }

/-- A device requests when one of its sources is requested and not accepted, and is in service when one is accepted; asking
changes nothing (40_contracts.md R124, R125, 41_ctc.md R156, 42_pio.md R189, 43_sio.md R237; decision D81). -/
def Obligations.QueriesReportSourceFlags : Prop :=
  ∀ s : State,
    (∃ r a, exec .ctcIsRequested s = .next { s with ctcOperated := true, reply := .bool r } ∧
      exec .ctcIsAccepted s = .next { s with ctcOperated := true, reply := .bool a } ∧
      (r = true ↔ ∃ i, (s.ctc.ch i).interruptRequested = true ∧ (s.ctc.ch i).interruptAccepted = false) ∧
      (a = true ↔ ∃ i, (s.ctc.ch i).interruptAccepted = true)) ∧
    (∃ r a, exec .pioIsRequested s = .next { s with reply := .bool r } ∧
      exec .pioIsAccepted s = .next { s with reply := .bool a } ∧
      (r = true ↔ ∃ p, (s.pio.port p).intRequested = true ∧ (s.pio.port p).intAccepted = false) ∧
      (a = true ↔ ∃ p, (s.pio.port p).intAccepted = true)) ∧
    ∃ r a, exec .sioIsRequested s = .next { s with reply := .bool r } ∧
      exec .sioIsAccepted s = .next { s with reply := .bool a } ∧
      (r = true ↔ ∃ c k, s.requested (.sio c k) = true ∧ s.accepted (.sio c k) = false) ∧
      (a = true ↔ ∃ c k, s.accepted (.sio c k) = true)

/-- An acceptance, which is also what the vector rows stand for, puts the first pending source of the device in service,
drops its request and replies with its vector byte, every other flag and register as it was; with nothing pending it is
refused (40_contracts.md R126, 41_ctc.md R157, 42_pio.md R190, 43_sio.md R238; decisions D13, D19, D40, D66, D67;
log 4). -/
def Obligations.AcceptTakesFirstPendingSource : Prop :=
  ∀ (op : Instr) (d : Device) (s : State),
    (op, d) ∈ [(Instr.ctcAccept, Device.ctc), (.ctcVector, .ctc), (.pioAccept, .pio), (.pioVector, .pio),
      (.sioAccept, .sio), (.sioVector, .sio)] →
    (∀ pre x post, sources d = pre ++ x :: post →
      (∀ y ∈ pre, s.requested y = false ∨ s.accepted y = true) → s.requested x = true → s.accepted x = false →
      ∃ v, IsVector s v x ∧
        exec op s = .next { s.setFlags x false true with
          ctcOperated := s.ctcOperated || decide (d = .ctc), reply := .byte v }) ∧
    ((∀ x ∈ sources d, s.requested x = false ∨ s.accepted x = true) → exec op s = .refused .acceptWithoutRequest)

/-- The vector byte an acceptance returns is the one of the source it puts in service, computed from the registers as they
then are; in every state with the invariants the CTC's vector has its low three bits 0 (60_exceptions.md R279). -/
def Obligations.AcceptanceRepliesWithVector : Prop :=
  (∀ (op : Instr) (s t : State), op = .ctcAccept ∨ op = .pioAccept ∨ op = .sioAccept ∨ op = .chainAccept →
      exec op s = .next t → ∃ x v, s.accepted x = false ∧ t.accepted x = true ∧ t.reply = .byte v ∧ IsVector s v x) ∧
    ∀ s : State, s.Inv → s.ctc.vector.extractLsb' 0 3 = 0

/-- `ctc.finish()` clears the accepted flag of the first accepted channel, in the order 0 to 3, and nothing else; with none
accepted it has no effect (41_ctc.md R158). -/
def Obligations.CtcFinishReleasesFirstAccepted : Prop :=
  ∀ s : State,
    (∀ i, (s.ctc.ch i).interruptAccepted = true → (∀ j, j.toNat < i.toNat → (s.ctc.ch j).interruptAccepted = false) →
      exec .ctcFinish s = .next { s with
        ctc := s.ctc.setCh i { s.ctc.ch i with interruptAccepted := false }, ctcOperated := true, reply := .unit }) ∧
    ((∀ i, (s.ctc.ch i).interruptAccepted = false) →
      exec .ctcFinish s = .next { s with ctcOperated := true, reply := .unit })

/-- `pio.finish()` and `sio.finish()` clear the accepted flag of the device's first accepted source, and nothing else; with
none accepted they have no effect (42_pio.md R191, 43_sio.md R240; decisions D40, D67). -/
def Obligations.PioAndSioFinishReleaseFirstAccepted : Prop :=
  ∀ (op : Instr) (d : Device) (s : State), (op, d) ∈ [(Instr.pioFinish, Device.pio), (.sioFinish, .sio)] →
    (∀ pre x post, sources d = pre ++ x :: post → (∀ y ∈ pre, s.accepted y = false) → s.accepted x = true →
      exec op s = .next { s.setFlags x (s.requested x) false with reply := .unit }) ∧
    ((∀ x ∈ sources d, s.accepted x = false) → exec op s = .next { s with reply := .unit })

/-! ## The daisy chain -/

/-- The interrupt line speaks for the first device in the chain's order that requests, unless it or a device before it is in
service; accepting over the chain is that device's acceptance, and with none it is refused (60_exceptions.md R275, R276;
decisions D80, D82). The mark that the CTC was consulted is the model's (log 9). -/
def Obligations.ChainServesFirstRequestingDevice : Prop :=
  ∀ s : State,
    (∀ pre d post, s.wiring.chainOrder.devices = pre ++ d :: post →
      (∀ e ∈ pre, s.isAccepted e = false ∧ s.isRequested e = false) → s.isAccepted d = false → s.isRequested d = true →
      (∃ o, exec .chainRequest s = .next { s with ctcOperated := o, reply := .device (some d) }) ∧
      ∃ op o t, (op, d) ∈ [(Instr.ctcAccept, Device.ctc), (.pioAccept, .pio), (.sioAccept, .sio)] ∧
        exec op s = .next t ∧ exec .chainAccept s = .next { t with ctcOperated := o }) ∧
    ((¬ ∃ pre d post, s.wiring.chainOrder.devices = pre ++ d :: post ∧
        (∀ e ∈ pre, s.isAccepted e = false ∧ s.isRequested e = false) ∧ s.isAccepted d = false ∧
        s.isRequested d = true) →
      (∃ o, exec .chainRequest s = .next { s with ctcOperated := o, reply := .device none }) ∧
      exec .chainAccept s = .refused .acceptWithoutRequest)

/-- `chainFinish()` clears the accepted flag of the first source in service of the first device in service, in the chain's
order, and nothing else; with none in service it has no effect (60_exceptions.md R277; decision D80; log 9). -/
def Obligations.ChainFinishReleasesFirstDevice : Prop :=
  ∀ s : State,
    (∀ pre d post front x back, s.wiring.chainOrder.devices = pre ++ d :: post →
      (∀ e ∈ pre, ∀ y ∈ sources e, s.accepted y = false) → sources d = front ++ x :: back →
      (∀ y ∈ front, s.accepted y = false) → s.accepted x = true →
      ∃ o, exec .chainFinish s = .next { s.setFlags x (s.requested x) false with ctcOperated := o, reply := .unit }) ∧
    ((∀ x, s.accepted x = false) →
      ∃ o, exec .chainFinish s = .next { s with ctcOperated := o, reply := .unit })

/-- At most one source of each device in service is kept by every instruction but the acceptances that go round the chain:
the devices' own `accept()` and the vector rows, which the model reads as acceptances (log 4). Service over the chain nests
last-in first-out: an acceptance takes a device before which, in the chain's order, none is in service, and a
`chainFinish()` next gives back the flags of every source in service before it (60_exceptions.md R278; decision D80). -/
def Obligations.ChainServiceNests : Prop :=
  (∀ (i : Instr) (s t : State), accepts i = false ∨ i = .chainAccept → s.OneInService → exec i s = .next t →
    t.OneInService) ∧
  ∀ s t : State, s.OneInService → exec .chainAccept s = .next t →
    (∃ pre d post, s.wiring.chainOrder.devices = pre ++ d :: post ∧
      (∀ e, e = d ∨ e ∈ pre → s.isAccepted e = false) ∧ (∀ e, t.isAccepted e = (s.isAccepted e || decide (e = d)))) ∧
    ∃ u, exec .chainFinish t = .next u ∧ u.OneInService ∧ ∀ x, u.accepted x = s.accepted x
end

