-- ==== Sys2Proof/Laws/Decode.lean ====
section
/-! SUPPORT. The byte formats read back: what a decoder gives for a byte its encoder wrote, and what an encoder gives for
the fields its decoder read. -/

namespace Sys2Proof

/-! ## The fields of a written byte -/

theorem decodeCtc_expected (b : Byte) : decodeCtc true b = .timeConstant b := rfl

theorem decodeCtc_control (w : CtcControl) : decodeCtc false (encodeCtcControl w) = .control w := by
  obtain ⟨a, b, c, d, e, f, g⟩ := w
  revert a b c d e f g
  decide

theorem decodeCtc_vector (base : BitVec 5) (x : BitVec 2) :
    decodeCtc false (encodeCtcVector base x) = .vector base x := by
  revert base x
  decide

theorem decodePio_directionMask (b : Byte) : decodePio .directionMask b = .direction b := rfl

theorem decodePio_interruptMask (b : Byte) : decodePio .interruptMask b = .interruptMask b := rfl

theorem decodePio_vector (v : BitVec 7) : decodePio .command (encodePio (.vector v)) = .vector v := by
  revert v
  decide

theorem decodePio_mode (m : PioMode) (x : BitVec 2) : decodePio .command (encodePio (.mode m x)) = .mode m x := by
  cases m <;> revert x <;> decide

theorem decodePio_condition (w : PioCondition) : decodePio .command (encodePio (.condition w)) = .condition w := by
  obtain ⟨a, b, c, d⟩ := w
  revert a b c d
  decide

theorem decodePio_enable (e : Bool) (x : BitVec 3) : decodePio .command (encodePio (.enable e x)) = .enable e x := by
  revert e x
  decide

theorem decodePio_reserved (x : BitVec 6) : decodePio .command (encodePio (.reserved x)) = .reserved x := by
  revert x
  decide

theorem decodePio_reservedB (x : BitVec 4) : decodePio .command (encodePio (.reservedB x)) = .reservedB x := by
  revert x
  decide

theorem decodeWr0_fields (cmd : SioCommand) (crc : BitVec 2) (ptr : BitVec 3) :
    (encodeWr0 cmd crc ptr).extractLsb' 6 2 = crc ∧
      decodeSioCommand ((encodeWr0 cmd crc ptr).extractLsb' 3 3) = cmd ∧
      (encodeWr0 cmd crc ptr).extractLsb' 0 3 = ptr := by
  cases cmd <;> revert crc ptr <;> decide

theorem decodeWr1_encodeWr1 (w : Wr1) : decodeWr1 (encodeWr1 w) = w := by
  obtain ⟨a, b, c, d, e⟩ := w
  revert a b c d e
  decide

theorem decodeWr3_encodeWr3 (w : Wr3) : decodeWr3 (encodeWr3 w) = w := by
  obtain ⟨a, b, c⟩ := w
  revert a b c
  decide

theorem decodeWr4_encodeWr4 (w : Wr4) : decodeWr4 (encodeWr4 w) = w := by
  obtain ⟨a, b, c, d, e⟩ := w
  revert a b c d e
  decide

theorem decodeWr5_encodeWr5 (w : Wr5) : decodeWr5 (encodeWr5 w) = w := by
  obtain ⟨a, b, c, d, e, f, g⟩ := w
  revert a b c d e f g
  decide

/-! ## The byte of the fields read -/

theorem encodeCtc_decodeCtc (expect : Bool) (b : Byte) : encodeCtc (decodeCtc expect b) = b := by
  revert expect b
  decide

theorem encodePio_decodePio (next : NextControl) (b : Byte) : encodePio (decodePio next b) = b := by
  cases next <;> revert b <;> decide

theorem encodeSio_decodeSio (ptr : BitVec 3) (b : Byte) : encodeSio (decodeSio ptr b) = b := by
  revert ptr b
  decide

/-! ## Frames -/

/-- The bytes of a frame are the bytes of that frame only. -/
theorem frameOfBytes_bytes (f : Frame) : frameOfBytes f.bytes = some f := by
  obtain ⟨d, o, i, x, n⟩ := f
  simp only [Frame.bytes, frameOfBytes, Option.some.injEq, Frame.mk.injEq, true_and]
  apply BitVec.eq_of_getLsbD_eq
  intro k hk
  simp only [BitVec.getLsbD_append, BitVec.getLsbD_extractLsb']
  by_cases h1 : k < 8
  · simp [h1]
  · by_cases h2 : k - 8 < 8
    · simp [h1, h2, show 8 + (k - 8) = k by omega]
    · by_cases h3 : k - 8 - 8 < 8
      · simp [h1, h2, h3, show 16 + (k - 8 - 8) = k by omega]
      · simp [h1, h2, h3, show 24 + (k - 8 - 8 - 8) = k by omega, show k - 8 - 8 - 8 < 8 by omega]

theorem bytes_frameOfBytes {bs : List Byte} {f : Frame} (h : frameOfBytes bs = some f) : f.bytes = bs := by
  match bs, h with
  | [d, o, i, x, n0, n1, n2, n3], h =>
    cases h
    simp only [Frame.bytes, List.cons.injEq, and_true, true_and]
    refine ⟨?_, ?_, ?_, ?_⟩ <;>
      apply BitVec.eq_of_getLsbD_eq <;> intro k hk <;>
      simp only [BitVec.getLsbD_append, BitVec.getLsbD_extractLsb', hk, decide_true, Bool.true_and]
    · simp [hk]
    · simp [show ¬ 8 + k < 8 by omega, show 8 + k - 8 = k by omega, hk]
    · simp [show ¬ 16 + k < 8 by omega, show 16 + k - 8 = k + 8 by omega, show ¬ k + 8 < 8 by omega, hk]
    · simp [show ¬ 24 + k < 8 by omega, show 24 + k - 8 = k + 16 by omega, show ¬ k + 16 < 8 by omega,
        show k + 16 - 8 = k + 8 by omega, show ¬ k + 8 < 8 by omega]

theorem ctcIxOf_toNat (i : CtcIx) : ctcIxOf (.ofNat 8 i.toNat) = .ok i := by cases i <;> rfl

theorem sideOf_toNat (p : Side) : sideOf (.ofNat 8 p.toNat) = .ok p := by cases p <;> rfl

/-- The decoder answers an instruction exactly for the bytes of its frame, when the frame names it. -/
theorem decode_eq_ok_iff (bs : List Byte) (i : Instr) :
    decode bs = .ok i ↔ bs = encode i ∧ parseFrame i.frame = .ok i := by
  unfold decode encode
  constructor
  · intro h
    cases hf : frameOfBytes bs with
    | none => simp [hf] at h
    | some f =>
      simp only [hf] at h
      cases hp : parseFrame f with
      | error e => simp [hp] at h
      | ok j =>
        simp only [hp] at h
        split at h
        · next hj =>
          cases h
          subst hj
          exact ⟨(bytes_frameOfBytes hf).symm, hp⟩
        · cases h
  · rintro ⟨rfl, hp⟩
    simp [frameOfBytes_bytes, hp]

end Sys2Proof
end

