-- ==== Sys2Proof/Laws/State.lean ====
section
/-! SUPPORT. Each field of the state after each update of the state, and the reads of an indexed register after a write of
it: no later proof unfolds a record update. -/

namespace Sys2Proof.Machine

/-! ## Fields of the state after an update -/

@[simp] theorem State.setCtc_ctc (s : State) (c : Ctc) : (s.setCtc c).ctc = c := rfl
@[simp] theorem State.setCtc_pio (s : State) (c : Ctc) : (s.setCtc c).pio = s.pio := rfl
@[simp] theorem State.setCtc_sio (s : State) (c : Ctc) : (s.setCtc c).sio = s.sio := rfl
@[simp] theorem State.setCtc_wiring (s : State) (c : Ctc) : (s.setCtc c).wiring = s.wiring := rfl
@[simp] theorem State.setCtc_ctcOperated (s : State) (c : Ctc) : (s.setCtc c).ctcOperated = s.ctcOperated := rfl
@[simp] theorem State.setCtc_input (s : State) (c : Ctc) : (s.setCtc c).input = s.input := rfl
@[simp] theorem State.setCtc_reply (s : State) (c : Ctc) : (s.setCtc c).reply = s.reply := rfl
@[simp] theorem State.setCtc_trace (s : State) (c : Ctc) : (s.setCtc c).trace = s.trace := rfl
@[simp] theorem State.setCtc_draws (s : State) (c : Ctc) : (s.setCtc c).draws = s.draws := rfl

@[simp] theorem State.setPio_ctc (s : State) (p : Pio) : (s.setPio p).ctc = s.ctc := rfl
@[simp] theorem State.setPio_pio (s : State) (p : Pio) : (s.setPio p).pio = p := rfl
@[simp] theorem State.setPio_sio (s : State) (p : Pio) : (s.setPio p).sio = s.sio := rfl
@[simp] theorem State.setPio_wiring (s : State) (p : Pio) : (s.setPio p).wiring = s.wiring := rfl
@[simp] theorem State.setPio_ctcOperated (s : State) (p : Pio) : (s.setPio p).ctcOperated = s.ctcOperated := rfl
@[simp] theorem State.setPio_input (s : State) (p : Pio) : (s.setPio p).input = s.input := rfl
@[simp] theorem State.setPio_reply (s : State) (p : Pio) : (s.setPio p).reply = s.reply := rfl
@[simp] theorem State.setPio_trace (s : State) (p : Pio) : (s.setPio p).trace = s.trace := rfl
@[simp] theorem State.setPio_draws (s : State) (p : Pio) : (s.setPio p).draws = s.draws := rfl

@[simp] theorem State.setSio_ctc (s : State) (d : Sio) : (s.setSio d).ctc = s.ctc := rfl
@[simp] theorem State.setSio_pio (s : State) (d : Sio) : (s.setSio d).pio = s.pio := rfl
@[simp] theorem State.setSio_sio (s : State) (d : Sio) : (s.setSio d).sio = d := rfl
@[simp] theorem State.setSio_wiring (s : State) (d : Sio) : (s.setSio d).wiring = s.wiring := rfl
@[simp] theorem State.setSio_ctcOperated (s : State) (d : Sio) : (s.setSio d).ctcOperated = s.ctcOperated := rfl
@[simp] theorem State.setSio_input (s : State) (d : Sio) : (s.setSio d).input = s.input := rfl
@[simp] theorem State.setSio_reply (s : State) (d : Sio) : (s.setSio d).reply = s.reply := rfl
@[simp] theorem State.setSio_trace (s : State) (d : Sio) : (s.setSio d).trace = s.trace := rfl
@[simp] theorem State.setSio_draws (s : State) (d : Sio) : (s.setSio d).draws = s.draws := rfl

@[simp] theorem State.returning_ctc (s : State) (r : Reply) : (s.returning r).ctc = s.ctc := rfl
@[simp] theorem State.returning_pio (s : State) (r : Reply) : (s.returning r).pio = s.pio := rfl
@[simp] theorem State.returning_sio (s : State) (r : Reply) : (s.returning r).sio = s.sio := rfl
@[simp] theorem State.returning_wiring (s : State) (r : Reply) : (s.returning r).wiring = s.wiring := rfl
@[simp] theorem State.returning_ctcOperated (s : State) (r : Reply) : (s.returning r).ctcOperated = s.ctcOperated := rfl
@[simp] theorem State.returning_input (s : State) (r : Reply) : (s.returning r).input = s.input := rfl
@[simp] theorem State.returning_reply (s : State) (r : Reply) : (s.returning r).reply = r := rfl
@[simp] theorem State.returning_trace (s : State) (r : Reply) : (s.returning r).trace = s.trace := rfl
@[simp] theorem State.returning_draws (s : State) (r : Reply) : (s.returning r).draws = s.draws := rfl

@[simp] theorem State.emit_ctc (s : State) (es : List Event) : (s.emit es).ctc = s.ctc := rfl
@[simp] theorem State.emit_pio (s : State) (es : List Event) : (s.emit es).pio = s.pio := rfl
@[simp] theorem State.emit_sio (s : State) (es : List Event) : (s.emit es).sio = s.sio := rfl
@[simp] theorem State.emit_wiring (s : State) (es : List Event) : (s.emit es).wiring = s.wiring := rfl
@[simp] theorem State.emit_ctcOperated (s : State) (es : List Event) : (s.emit es).ctcOperated = s.ctcOperated := rfl
@[simp] theorem State.emit_input (s : State) (es : List Event) : (s.emit es).input = s.input := rfl
@[simp] theorem State.emit_reply (s : State) (es : List Event) : (s.emit es).reply = s.reply := rfl
@[simp] theorem State.emit_trace (s : State) (es : List Event) : (s.emit es).trace = s.trace ++ es := rfl
@[simp] theorem State.emit_draws (s : State) (es : List Event) : (s.emit es).draws = s.draws := rfl

@[simp] theorem State.markCtc_ctc (s : State) : (s.markCtc).ctc = s.ctc := rfl
@[simp] theorem State.markCtc_pio (s : State) : (s.markCtc).pio = s.pio := rfl
@[simp] theorem State.markCtc_sio (s : State) : (s.markCtc).sio = s.sio := rfl
@[simp] theorem State.markCtc_wiring (s : State) : (s.markCtc).wiring = s.wiring := rfl
@[simp] theorem State.markCtc_ctcOperated (s : State) : (s.markCtc).ctcOperated = true := rfl
@[simp] theorem State.markCtc_input (s : State) : (s.markCtc).input = s.input := rfl
@[simp] theorem State.markCtc_reply (s : State) : (s.markCtc).reply = s.reply := rfl
@[simp] theorem State.markCtc_trace (s : State) : (s.markCtc).trace = s.trace := rfl
@[simp] theorem State.markCtc_draws (s : State) : (s.markCtc).draws = s.draws := rfl

@[simp] theorem State.setInput_ctc (s : State) (fs : List (List Byte)) : (s.setInput fs).ctc = s.ctc := rfl
@[simp] theorem State.setInput_pio (s : State) (fs : List (List Byte)) : (s.setInput fs).pio = s.pio := rfl
@[simp] theorem State.setInput_sio (s : State) (fs : List (List Byte)) : (s.setInput fs).sio = s.sio := rfl
@[simp] theorem State.setInput_wiring (s : State) (fs : List (List Byte)) : (s.setInput fs).wiring = s.wiring := rfl
@[simp] theorem State.setInput_ctcOperated (s : State) (fs : List (List Byte)) : (s.setInput fs).ctcOperated = s.ctcOperated := rfl
@[simp] theorem State.setInput_input (s : State) (fs : List (List Byte)) : (s.setInput fs).input = fs := rfl
@[simp] theorem State.setInput_reply (s : State) (fs : List (List Byte)) : (s.setInput fs).reply = s.reply := rfl
@[simp] theorem State.setInput_trace (s : State) (fs : List (List Byte)) : (s.setInput fs).trace = s.trace := rfl
@[simp] theorem State.setInput_draws (s : State) (fs : List (List Byte)) : (s.setInput fs).draws = s.draws := rfl

@[simp] theorem State.advanceDraws_ctc (s : State) : (s.advanceDraws).ctc = s.ctc := rfl
@[simp] theorem State.advanceDraws_pio (s : State) : (s.advanceDraws).pio = s.pio := rfl
@[simp] theorem State.advanceDraws_sio (s : State) : (s.advanceDraws).sio = s.sio := rfl
@[simp] theorem State.advanceDraws_wiring (s : State) : (s.advanceDraws).wiring = s.wiring := rfl
@[simp] theorem State.advanceDraws_ctcOperated (s : State) : (s.advanceDraws).ctcOperated = s.ctcOperated := rfl
@[simp] theorem State.advanceDraws_input (s : State) : (s.advanceDraws).input = s.input := rfl
@[simp] theorem State.advanceDraws_reply (s : State) : (s.advanceDraws).reply = s.reply := rfl
@[simp] theorem State.advanceDraws_trace (s : State) : (s.advanceDraws).trace = s.trace := rfl
@[simp] theorem State.advanceDraws_draws (s : State) : (s.advanceDraws).draws = s.draws + 1 := rfl

@[simp] theorem State.returnDraw_ctc (s : State) : s.returnDraw.ctc = s.ctc := rfl
@[simp] theorem State.returnDraw_pio (s : State) : s.returnDraw.pio = s.pio := rfl
@[simp] theorem State.returnDraw_sio (s : State) : s.returnDraw.sio = s.sio := rfl
@[simp] theorem State.returnDraw_wiring (s : State) : s.returnDraw.wiring = s.wiring := rfl
@[simp] theorem State.returnDraw_ctcOperated (s : State) : s.returnDraw.ctcOperated = s.ctcOperated := rfl
@[simp] theorem State.returnDraw_input (s : State) : s.returnDraw.input = s.input := rfl
@[simp] theorem State.returnDraw_reply (s : State) : s.returnDraw.reply = .byte (Config.freeByte s.draws) := rfl
@[simp] theorem State.returnDraw_trace (s : State) : s.returnDraw.trace = s.trace := rfl
@[simp] theorem State.returnDraw_draws (s : State) : s.returnDraw.draws = s.draws + 1 := rfl

@[simp] theorem State.present_ctc (s : State) (f : List Byte) : (s.present f).ctc = s.ctc := rfl
@[simp] theorem State.present_pio (s : State) (f : List Byte) : (s.present f).pio = s.pio := rfl
@[simp] theorem State.present_sio (s : State) (f : List Byte) : (s.present f).sio = s.sio := rfl
@[simp] theorem State.present_wiring (s : State) (f : List Byte) : (s.present f).wiring = s.wiring := rfl
@[simp] theorem State.present_ctcOperated (s : State) (f : List Byte) : (s.present f).ctcOperated = s.ctcOperated := rfl
@[simp] theorem State.present_input (s : State) (f : List Byte) : (s.present f).input = f :: s.input := rfl
@[simp] theorem State.present_reply (s : State) (f : List Byte) : (s.present f).reply = s.reply := rfl
@[simp] theorem State.present_trace (s : State) (f : List Byte) : (s.present f).trace = s.trace := rfl
@[simp] theorem State.present_draws (s : State) (f : List Byte) : (s.present f).draws = s.draws := rfl

/-! ## Indexed registers -/

@[simp] theorem Ctc.ch_setCh_self (c : Ctc) (i : CtcIx) (v : CtcChannel) : (c.setCh i v).ch i = v := by cases i <;> rfl

theorem Ctc.ch_setCh_ne (c : Ctc) (i j : CtcIx) (v : CtcChannel) (h : j ≠ i) : (c.setCh i v).ch j = c.ch j := by
  cases i <;> cases j <;> first | rfl | exact absurd rfl h

theorem Ctc.ch_setCh (c : Ctc) (i j : CtcIx) (v : CtcChannel) :
    (c.setCh i v).ch j = if j = i then v else c.ch j := by
  cases i <;> cases j <;> rfl

@[simp] theorem Ctc.setCh_vector (c : Ctc) (i : CtcIx) (v : CtcChannel) : (c.setCh i v).vector = c.vector := by
  cases i <;> rfl

@[simp] theorem Ctc.setCh_setCh (c : Ctc) (i : CtcIx) (u v : CtcChannel) : (c.setCh i u).setCh i v = c.setCh i v := by
  cases i <;> rfl

@[simp] theorem Ctc.setCh_ch (c : Ctc) (i : CtcIx) : c.setCh i (c.ch i) = c := by cases i <;> rfl

@[simp] theorem Ctc.ch_withVector (c : Ctc) (i : CtcIx) (v : Byte) : ({ c with vector := v } : Ctc).ch i = c.ch i := by
  cases i <;> rfl

/-- Two CTCs with one vector and the same channels are equal. -/
theorem Ctc.eq_of_ch (c d : Ctc) (hv : c.vector = d.vector) (h : ∀ i, c.ch i = d.ch i) : c = d := by
  have h0 : c.ch0 = d.ch0 := h .c0
  have h1 : c.ch1 = d.ch1 := h .c1
  have h2 : c.ch2 = d.ch2 := h .c2
  have h3 : c.ch3 = d.ch3 := h .c3
  cases c; cases d; simp_all

@[simp] theorem Pio.port_setPort_self (d : Pio) (p : Side) (v : PioPort) : (d.setPort p v).port p = v := by
  cases p <;> rfl

theorem Pio.port_setPort (d : Pio) (p q : Side) (v : PioPort) :
    (d.setPort p v).port q = if q = p then v else d.port q := by
  cases p <;> cases q <;> rfl

@[simp] theorem Pio.setPort_resetState (d : Pio) (p : Side) (v : PioPort) :
    (d.setPort p v).resetState = d.resetState := by
  cases p <;> rfl

@[simp] theorem Pio.setPort_setPort (d : Pio) (p : Side) (u v : PioPort) :
    (d.setPort p u).setPort p v = d.setPort p v := by
  cases p <;> rfl

@[simp] theorem Pio.setPort_port (d : Pio) (p : Side) : d.setPort p (d.port p) = d := by cases p <;> rfl

@[simp] theorem Sio.ch_setCh_self (d : Sio) (c : Side) (v : SioChannel) : (d.setCh c v).ch c = v := by cases c <;> rfl

theorem Sio.ch_setCh (d : Sio) (c e : Side) (v : SioChannel) :
    (d.setCh c v).ch e = if e = c then v else d.ch e := by
  cases c <;> cases e <;> rfl

@[simp] theorem Sio.setCh_setCh (d : Sio) (c : Side) (u v : SioChannel) : (d.setCh c u).setCh c v = d.setCh c v := by
  cases c <;> rfl

@[simp] theorem Sio.setCh_ch (d : Sio) (c : Side) : d.setCh c (d.ch c) = d := by cases c <;> rfl

/-- A 3-bit register number is one of eight. -/
theorem eight_registers {P : BitVec 3 → Prop} (h0 : P 0) (h1 : P 1) (h2 : P 2) (h3 : P 3) (h4 : P 4) (h5 : P 5) (h6 : P 6)
    (h7 : P 7) (n : BitVec 3) : P n := by
  have : ∀ m : Fin 8, P (BitVec.ofNat 3 m.val) := by
    intro m
    match m with
    | 0 => exact h0
    | 1 => exact h1
    | 2 => exact h2
    | 3 => exact h3
    | 4 => exact h4
    | 5 => exact h5
    | 6 => exact h6
    | 7 => exact h7
  have hn := this ⟨n.toNat, n.isLt⟩
  simpa using hn

/-- A register read after a register written (43_sio.md R210). -/
theorem WriteRegs.get_set (w : WriteRegs) (n m : BitVec 3) (b : Byte) :
    (w.set n b).get m = if m = n then b else w.get m := by
  refine eight_registers (P := fun n => ∀ m, (w.set n b).get m = if m = n then b else w.get m)
    ?_ ?_ ?_ ?_ ?_ ?_ ?_ ?_ n m <;>
    exact eight_registers rfl rfl rfl rfl rfl rfl rfl rfl

/-- Returning the pointer to 0 changes `wr[0]` only, and leaves the pointer 0 (43_sio.md R210). -/
theorem WriteRegs.clearPointer_spec (w : WriteRegs) :
    w.clearPointer = { w with wr0 := w.wr0 &&& 0xF8 } ∧ w.clearPointer.pointer = 0 := by
  refine ⟨rfl, ?_⟩
  show (w.wr0 &&& 0xF8).extractLsb' 0 3 = 0
  generalize w.wr0 = b
  revert b
  decide

/-- The entry written, and the two others as they were (10_state.md R31). -/
theorem RxFifo.set_spec (f : RxFifo) (e : FifoEntry) :
    f.set 0 e = ⟨e, f.e1, f.e2⟩ ∧ f.set 1 e = ⟨f.e0, e, f.e2⟩ ∧ f.set 2 e = ⟨f.e0, f.e1, e⟩ :=
  ⟨rfl, rfl, rfl⟩

end Sys2Proof.Machine
end

