-- ==== Sys2Proof/Laws/Ops.lean ====
section
/-! SUPPORT. One lemma for each shared operation, saying once what it can do: the batches of pulses, the contract of the
interrupt sources, the fetch. -/

namespace Sys2Proof.Machine

/-! ## Batches of pulses (40_contracts.md R121) -/

@[simp] theorem repeatPulse_zero {α : Type} (f : α → α × List Event) (d : α) : repeatPulse f 0 d = (d, []) := rfl

theorem repeatPulse_succ {α : Type} (f : α → α × List Event) (n : Nat) (d : α) :
    repeatPulse f (n + 1) d = ((repeatPulse f n (f d).1).1, (f d).2 ++ (repeatPulse f n (f d).1).2) := rfl

/-- A batch of `a + b` is the batch of `a`, then the batch of `b`. -/
theorem repeatPulse_add {α : Type} (f : α → α × List Event) (a b : Nat) (d : α) :
    repeatPulse f (a + b) d =
      ((repeatPulse f b (repeatPulse f a d).1).1, (repeatPulse f a d).2 ++ (repeatPulse f b (repeatPulse f a d).1).2) := by
  induction a generalizing d with
  | zero => simp
  | succ n ih => rw [Nat.add_right_comm, repeatPulse_succ, repeatPulse_succ, ih]; simp [List.append_assoc]

/-- What one pulse keeps, a batch keeps. -/
theorem repeatPulse_keeps {α : Type} {f : α → α × List Event} {P : α → Prop} (h : ∀ d, P d → P (f d).1) (n : Nat)
    (d : α) (hd : P d) : P (repeatPulse f n d).1 := by
  induction n generalizing d with
  | zero => exact hd
  | succ n ih => exact ih _ (h d hd)

theorem andThen_keeps {α : Type} {f g : α → α × List Event} {P : α → Prop} (hf : ∀ d, P d → P (f d).1)
    (hg : ∀ d, P d → P (g d).1) (d : α) (hd : P d) : P (andThen f g d).1 :=
  hg _ (hf d hd)

/-! ## Requesting, accepting and finishing (40_contracts.md R123 to R127) -/

theorem mem_sources_ctc (i : CtcIx) : Source.ctc i ∈ sources .ctc := by cases i <;> decide

theorem mem_sources_pio (p : Side) : Source.pio p ∈ sources .pio := by cases p <;> decide

theorem mem_sources_sio (c : Side) (k : SioKind) : Source.sio c k ∈ sources .sio := by cases c <;> cases k <;> decide

theorem SioChannel.setFlags_requested (c : SioChannel) (k j : SioKind) (r a : Bool) :
    (c.setFlags k r a).requested j = if j = k then r else c.requested j := by
  cases k <;> cases j <;> rfl

theorem SioChannel.setFlags_accepted (c : SioChannel) (k j : SioKind) (r a : Bool) :
    (c.setFlags k r a).accepted j = if j = k then a else c.accepted j := by
  cases k <;> cases j <;> rfl

/-- Setting the flags of one source sets its requested flag and no other's. -/
theorem State.setFlags_requested (s : State) (x y : Source) (r a : Bool) :
    (s.setFlags x r a).requested y = if y = x then r else s.requested y := by
  rcases x with i | p | ⟨c, k⟩ <;> rcases y with j | q | ⟨e, l⟩
  · cases i <;> cases j <;> rfl
  · rfl
  · rfl
  · rfl
  · cases p <;> cases q <;> rfl
  · rfl
  · rfl
  · rfl
  · cases c <;> cases e <;> cases k <;> cases l <;> rfl

/-- Setting the flags of one source sets its accepted flag and no other's. -/
theorem State.setFlags_accepted (s : State) (x y : Source) (r a : Bool) :
    (s.setFlags x r a).accepted y = if y = x then a else s.accepted y := by
  rcases x with i | p | ⟨c, k⟩ <;> rcases y with j | q | ⟨e, l⟩
  · cases i <;> cases j <;> rfl
  · rfl
  · rfl
  · rfl
  · cases p <;> cases q <;> rfl
  · rfl
  · rfl
  · rfl
  · cases c <;> cases e <;> cases k <;> cases l <;> rfl

@[simp] theorem State.setFlags_wiring (s : State) (x : Source) (r a : Bool) : (s.setFlags x r a).wiring = s.wiring := by
  cases x <;> rfl

@[simp] theorem State.setFlags_input (s : State) (x : Source) (r a : Bool) : (s.setFlags x r a).input = s.input := by
  cases x <;> rfl

@[simp] theorem State.setFlags_reply (s : State) (x : Source) (r a : Bool) : (s.setFlags x r a).reply = s.reply := by
  cases x <;> rfl

@[simp] theorem State.setFlags_trace (s : State) (x : Source) (r a : Bool) : (s.setFlags x r a).trace = s.trace := by
  cases x <;> rfl

@[simp] theorem State.setFlags_draws (s : State) (x : Source) (r a : Bool) : (s.setFlags x r a).draws = s.draws := by
  cases x <;> rfl

@[simp] theorem State.setFlags_ctcOperated (s : State) (x : Source) (r a : Bool) :
    (s.setFlags x r a).ctcOperated = s.ctcOperated := by
  cases x <;> rfl

/-- The flags do not see a reply. -/
@[simp] theorem State.accepted_returning (s : State) (r : Reply) (x : Source) :
    (s.returning r).accepted x = s.accepted x := by
  cases x <;> rfl

@[simp] theorem State.requested_returning (s : State) (r : Reply) (x : Source) :
    (s.returning r).requested x = s.requested x := by
  cases x <;> rfl

/-- The flags do not see that the CTC has run. -/
@[simp] theorem State.accepted_markCtc (s : State) (x : Source) : s.markCtc.accepted x = s.accepted x := by
  cases x <;> rfl

@[simp] theorem State.requested_markCtc (s : State) (x : Source) : s.markCtc.requested x = s.requested x := by
  cases x <;> rfl

/-- All that accepting can do: the first pending source goes in service and its vector is the reply, or nothing is pending
and the spec refuses. -/
theorem acceptDevice_spec (d : Device) (s : State) :
    (∃ pre x post, sources d = pre ++ x :: post ∧ (∀ y ∈ pre, s.pending y = false) ∧ s.pending x = true ∧
        acceptDevice d s = .next ((s.setFlags x false true).returning (.byte (s.vectorOf x)))) ∨
      ((∀ x ∈ sources d, s.pending x = false) ∧ acceptDevice d s = .refused .acceptWithoutRequest) := by
  unfold acceptDevice
  cases h : (sources d).find? s.pending with
  | some x =>
    obtain ⟨hx, pre, post, hl, hpre⟩ := List.find?_eq_some_iff_append.mp h
    exact .inl ⟨pre, x, post, hl, fun y hy => by simpa using hpre y hy, hx, rfl⟩
  | none =>
    have h' := List.find?_eq_none.mp h
    exact .inr ⟨fun x hx => by simpa using h' x hx, rfl⟩

/-- All that finishing can do: the first accepted source is released, or nothing is accepted and nothing happens. -/
theorem finishDevice_spec (d : Device) (s : State) :
    (∃ pre x post, sources d = pre ++ x :: post ∧ (∀ y ∈ pre, s.accepted y = false) ∧ s.accepted x = true ∧
        finishDevice d s = s.setFlags x (s.requested x) false) ∨
      ((∀ x ∈ sources d, s.accepted x = false) ∧ finishDevice d s = s) := by
  unfold finishDevice
  cases h : (sources d).find? s.accepted with
  | some x =>
    obtain ⟨hx, pre, post, hl, hpre⟩ := List.find?_eq_some_iff_append.mp h
    exact .inl ⟨pre, x, post, hl, fun y hy => by simpa using hpre y hy, hx, rfl⟩
  | none =>
    have h' := List.find?_eq_none.mp h
    exact .inr ⟨fun x hx => by simpa using h' x hx, rfl⟩

/-- A device requests exactly when one of its sources is pending. -/
theorem State.isRequested_iff (s : State) (d : Device) : s.isRequested d = true ↔ ∃ x ∈ sources d, s.pending x = true :=
  List.any_eq_true

/-- A device is in service exactly when one of its sources is. -/
theorem State.isAccepted_iff (s : State) (d : Device) : s.isAccepted d = true ↔ ∃ x ∈ sources d, s.accepted x = true :=
  List.any_eq_true

/-! ## The chain (60_exceptions.md R274 to R277) -/

/-- Each device stands in the chain exactly once. -/
theorem ChainOrder.nodup (o : ChainOrder) : o.devices.Nodup := by cases o <;> decide

theorem ChainOrder.mem_devices (o : ChainOrder) (d : Device) : d ∈ o.devices := by cases o <;> cases d <;> decide

/-- The walk finds a device exactly when that device requests, is not in service, and nothing before it does either. -/
theorem chainWalk_eq_some (s : State) (ds : List Device) (d : Device) :
    chainWalk s ds = some d ↔
      ∃ pre post, ds = pre ++ d :: post ∧ (∀ e ∈ pre, s.isAccepted e = false ∧ s.isRequested e = false) ∧
        s.isAccepted d = false ∧ s.isRequested d = true := by
  induction ds with
  | nil => simp [chainWalk]
  | cons e ds ih =>
    unfold chainWalk
    cases ha : s.isAccepted e with
    | true =>
      simp only [if_true, reduceCtorEq, false_iff]
      rintro ⟨pre, post, hl, hpre, hd, -⟩
      cases pre with
      | nil => simp only [List.nil_append, List.cons.injEq] at hl; simp [← hl.1, ha] at hd
      | cons p pre =>
        simp only [List.cons_append, List.cons.injEq] at hl
        have := (hpre p (by simp)).1
        simp [← hl.1, ha] at this
    | false =>
      cases hr : s.isRequested e with
      | true =>
        simp only [Bool.false_eq_true, if_false, if_true, Option.some.injEq]
        constructor
        · rintro rfl
          exact ⟨[], ds, rfl, by simp, ha, hr⟩
        · rintro ⟨pre, post, hl, hpre, hd, -⟩
          cases pre with
          | nil => simp only [List.nil_append, List.cons.injEq] at hl; exact hl.1
          | cons p pre =>
            simp only [List.cons_append, List.cons.injEq] at hl
            have := (hpre p (by simp)).2
            simp [← hl.1, hr] at this
      | false =>
        simp only [Bool.false_eq_true, if_false]
        rw [ih]
        constructor
        · rintro ⟨pre, post, rfl, hpre, hd⟩
          refine ⟨e :: pre, post, rfl, ?_, hd⟩
          intro x hx
          rcases List.mem_cons.mp hx with rfl | hx
          · exact ⟨ha, hr⟩
          · exact hpre x hx
        · rintro ⟨pre, post, hl, hpre, hd⟩
          cases pre with
          | nil =>
            simp only [List.nil_append, List.cons.injEq] at hl
            rw [hl.1, hd.2] at hr
            cases hr
          | cons p pre =>
            simp only [List.cons_append, List.cons.injEq] at hl
            exact ⟨pre, post, hl.2, fun x hx => hpre x (List.mem_cons_of_mem _ hx), hd⟩

/-! ## The input -/

/-- The fetch takes the first frame of the input, or finds none. -/
theorem fetch_spec (s : State) :
    (s.input = [] ∧ fetch s = none) ∨ ∃ f rest, s.input = f :: rest ∧ fetch s = some (f, s.setInput rest) := by
  unfold fetch
  cases h : s.input with
  | nil => exact .inl ⟨rfl, rfl⟩
  | cons f rest => exact .inr ⟨f, rest, rfl, rfl⟩

/-- What was presented is fetched next, and the state is as it was. -/
@[simp] theorem fetch_present (s : State) (f : List Byte) : fetch (s.present f) = some (f, s) := rfl

end Sys2Proof.Machine
end

