-- ==== Sys2Proof/Laws/Ctc.lean ====
section
/-! SUPPORT. One lemma for each operation of the CTC, saying once what it can do, and that each keeps the CTC's
invariant. -/

namespace Sys2Proof.Machine

/-! ## The invariant, channel by channel -/

theorem CtcIx.mem_all (i : CtcIx) : i ∈ CtcIx.all := by cases i <;> decide

theorem Ctc.ok_iff (c : Ctc) : c.Ok ↔ c.vector.extractLsb' 0 3 = 0 ∧ (∀ i, (c.ch i).Ok) ∧ c.WiredOk := by
  constructor
  · rintro ⟨hv, h0, h1, h2, h3, hw⟩
    exact ⟨hv, fun i => by cases i <;> assumption, hw⟩
  · rintro ⟨hv, h, hw⟩
    exact ⟨hv, h .c0, h .c1, h .c2, h .c3, hw⟩

/-- Links are followed through the cascade fields only. -/
theorem Ctc.follow_congr (c d : Ctc) (h : ∀ i, (d.ch i).cascadeTo = (c.ch i).cascadeTo) (n : Nat) (i : CtcIx) :
    d.follow n i = c.follow n i := by
  induction n generalizing i with
  | zero => rfl
  | succ n ih =>
    show (d.ch i).cascadeTo.bind (d.follow n) = (c.ch i).cascadeTo.bind (c.follow n)
    rw [h i]
    cases (c.ch i).cascadeTo with
    | none => rfl
    | some k => exact ih k

/-- The wiring is sound when it is the wiring of a CTC whose wiring is. -/
theorem Ctc.wiredOk_congr (c d : Ctc) (hto : ∀ i, (d.ch i).cascadeTo = (c.ch i).cascadeTo)
    (hfrom : ∀ i, (d.ch i).cascadeFrom = (c.ch i).cascadeFrom) (h : c.WiredOk) : d.WiredOk := by
  refine ⟨fun a ha b hb => ?_, fun i hi => ?_⟩
  · rw [hto a, hfrom b]; exact h.1 a ha b hb
  · rw [Ctc.follow_congr c d hto]; exact h.2 i hi

/-- A change of one channel that keeps its links and its ranges keeps the invariant. -/
theorem Ctc.ok_setCh (c : Ctc) (i : CtcIx) (v : CtcChannel) (h : c.Ok) (hv : v.Ok)
    (hto : v.cascadeTo = (c.ch i).cascadeTo) (hfrom : v.cascadeFrom = (c.ch i).cascadeFrom) : (c.setCh i v).Ok := by
  rw [Ctc.ok_iff] at h ⊢
  refine ⟨by simpa using h.1, fun j => ?_, Ctc.wiredOk_congr c _ ?_ ?_ h.2.2⟩
  · rw [Ctc.ch_setCh]; split
    · exact hv
    · exact h.2.1 j
  · intro j; rw [Ctc.ch_setCh]; split
    · next e => rw [e, hto]
    · rfl
  · intro j; rw [Ctc.ch_setCh]; split
    · next e => rw [e, hfrom]
    · rfl

/-! ## Register writes (41_ctc.md R140 to R143) -/

theorem timeConstantOf_range (b : Byte) : TimeConstant (timeConstantOf b) := by
  unfold timeConstantOf TimeConstant
  split
  · omega
  · next h =>
    have : b.toNat ≠ 0 := fun h0 => h (BitVec.eq_of_toNat_eq (by simpa using h0))
    have := b.isLt
    omega

/-- All that a byte written to a channel can do. -/
theorem ctcWrite_spec (i : CtcIx) (b : Byte) (c : Ctc) :
    ((c.ch i).expectTimeConstant = true ∧ ctcWrite i b c = c.setCh i ((c.ch i).setTimeConstant b)) ∨
      ((c.ch i).expectTimeConstant = false ∧ b.getLsbD 0 = false ∧
        ctcWrite i b c = { c with vector := b.extractLsb' 3 5 ++ 0#3 }) ∨
      ((c.ch i).expectTimeConstant = false ∧ b.getLsbD 0 = true ∧
        ∃ w, decodeCtc false b = .control w ∧ ctcWrite i b c = c.setCh i ((c.ch i).controlWord w)) := by
  unfold ctcWrite
  cases he : (c.ch i).expectTimeConstant with
  | true => exact .inl ⟨rfl, rfl⟩
  | false =>
    cases hb : b.getLsbD 0 with
    | false => exact .inr (.inl ⟨rfl, rfl, by simp only [decodeCtc, hb]; rfl⟩)
    | true => exact .inr (.inr ⟨rfl, rfl, _, by simp only [decodeCtc, hb]; rfl, by simp only [decodeCtc, hb]; rfl⟩)

theorem CtcChannel.setTimeConstant_ok (c : CtcChannel) (b : Byte) (h : c.Ok) : (c.setTimeConstant b).Ok :=
  ⟨h.1, h.2.1, h.2.2.1, h.2.2.2.1, fun _ e => Option.some.inj e ▸ timeConstantOf_range b⟩

theorem CtcChannel.controlWord_ok (c : CtcChannel) (w : CtcControl) (h : c.Ok) : (c.controlWord w).Ok := by
  obtain ⟨hr, hi, hc, hp, hl⟩ := h
  unfold CtcChannel.controlWord
  cases w.softwareReset
  · exact ⟨by simpa using hr, hi, hc, hp, hl⟩
  · exact ⟨by simp, by simp, hc, hp, by simp⟩

theorem ctcWrite_ok (i : CtcIx) (b : Byte) (c : Ctc) (h : c.Ok) : (ctcWrite i b c).Ok := by
  have hi := ((Ctc.ok_iff c).mp h).2.1 i
  rcases ctcWrite_spec i b c with ⟨-, he⟩ | ⟨-, -, he⟩ | ⟨-, -, w, -, he⟩ <;> rw [he]
  · exact Ctc.ok_setCh c i _ h (CtcChannel.setTimeConstant_ok _ _ hi) rfl rfl
  · refine ⟨?_, h.2.1, h.2.2.1, h.2.2.2.1, h.2.2.2.2.1, Ctc.wiredOk_congr c _ ?_ ?_ h.2.2.2.2.2⟩
    · show (b.extractLsb' 3 5 ++ 0#3).extractLsb' 0 3 = 0
      clear he
      revert b
      decide
    · intro j; cases j <;> rfl
    · intro j; cases j <;> rfl
  · exact Ctc.ok_setCh c i _ h (CtcChannel.controlWord_ok _ _ hi) rfl rfl

/-! ## Counting and cascade (41_ctc.md R147 to R151) -/

/-- A qualifying edge starts a stopped channel and changes nothing else. -/
theorem CtcChannel.start_spec (d : CtcChannel) :
    d.start = { d with running := true, prescaler := if d.running then d.prescaler else 0 } := by
  unfold CtcChannel.start
  cases hr : d.running
  · rfl
  · cases d; simp_all

/-- All that a trigger can do: nothing to an unloaded channel, a start to one in timer mode, a start and a count to one in
counter mode. -/
theorem trigger_spec (n : Nat) (j : CtcIx) (c : Ctc) :
    ((c.ch j).counterInit = none ∧ trigger (n + 1) j c = (c, [])) ∨
      ((c.ch j).counterInit ≠ none ∧ (c.ch j).timerMode = true ∧
        trigger (n + 1) j c = (c.setCh j (c.ch j).start, [])) ∨
      ((c.ch j).counterInit ≠ none ∧ (c.ch j).timerMode = false ∧
        trigger (n + 1) j c = decrement (trigger n) j (c.setCh j (c.ch j).start)) := by
  unfold trigger
  by_cases h : (c.ch j).counterInit = none
  · exact .inl ⟨h, by simp [h]⟩
  · by_cases ht : (c.ch j).timerMode = true
    · exact .inr (.inl ⟨h, ht, by simp [h, ht]⟩)
    · exact .inr (.inr ⟨h, by simpa using ht, by simp [h, ht]⟩)

/-- All that a count can do: one less, or a zero-crossing. -/
theorem decrement_spec (cascade : CtcIx → Ctc → Ctc × List Event) (i : CtcIx) (c : Ctc) :
    (1 < (c.ch i).counter ∧
        decrement cascade i c = (c.setCh i { c.ch i with counter := (c.ch i).counter - 1 }, [])) ∨
      ((c.ch i).counter ≤ 1 ∧ decrement cascade i c = zeroCrossing cascade i c) := by
  unfold decrement
  by_cases h : 1 < (c.ch i).counter
  · exact .inl ⟨h, by simp [h]⟩
  · exact .inr ⟨by omega, by simp [h]⟩

/-- The channel a zero-crossing leaves, before it triggers any other. -/
def CtcChannel.reloaded (c : CtcChannel) : CtcChannel :=
  { c with
    counter := c.counterInit.getD c.counter
    interruptRequested := c.interruptRequested || c.interruptEnabled }

/-- All that a zero-crossing can do: the reload and the request, the trigger of the cascaded channel if there is one, and
its own event last. -/
theorem zeroCrossing_spec (cascade : CtcIx → Ctc → Ctc × List Event) (i : CtcIx) (c : Ctc) :
    ((c.ch i).cascadeTo = none ∧
        zeroCrossing cascade i c = (c.setCh i (c.ch i).reloaded, [.zeroCrossing i])) ∨
      ∃ j, (c.ch i).cascadeTo = some j ∧
        zeroCrossing cascade i c =
          ((cascade j (c.setCh i (c.ch i).reloaded)).1,
            (cascade j (c.setCh i (c.ch i).reloaded)).2 ++ [.zeroCrossing i]) := by
  unfold zeroCrossing
  cases h : (c.ch i).cascadeTo with
  | none => exact .inl ⟨rfl, rfl⟩
  | some j => exact .inr ⟨j, rfl, rfl⟩

theorem CtcChannel.reloaded_ok (c : CtcChannel) (h : c.Ok) : c.reloaded.Ok := by
  obtain ⟨hr, hi, hc, hp, hl⟩ := h
  unfold CtcChannel.reloaded
  cases he : c.counterInit with
  | none => exact ⟨by simpa [he] using hr, by simp, by simpa [he] using hc, hp, hl⟩
  | some v =>
    have := hi v he
    exact ⟨by simp, by simp; omega, by simp; omega, hp, hl⟩

theorem CtcChannel.start_ok (c : CtcChannel) (h : c.Ok) (hl : c.counterInit ≠ none) : c.start.Ok := by
  rw [CtcChannel.start_spec]
  refine ⟨fun _ => Option.isSome_iff_ne_none.mpr hl, h.2.1, h.2.2.1, ?_, h.2.2.2.2⟩
  show (if c.running then c.prescaler else 0) ≤ 255
  split
  · exact h.2.2.2.1
  · omega

theorem zeroCrossing_ok {cascade : CtcIx → Ctc → Ctc × List Event} (hk : ∀ j c, c.Ok → (cascade j c).1.Ok) (i : CtcIx)
    (c : Ctc) (h : c.Ok) : (zeroCrossing cascade i c).1.Ok := by
  have hi := ((Ctc.ok_iff c).mp h).2.1 i
  have hr : (c.setCh i (c.ch i).reloaded).Ok := Ctc.ok_setCh c i _ h (CtcChannel.reloaded_ok _ hi) rfl rfl
  rcases zeroCrossing_spec cascade i c with ⟨-, he⟩ | ⟨j, -, he⟩ <;> rw [he]
  · exact hr
  · exact hk j _ hr

theorem decrement_ok {cascade : CtcIx → Ctc → Ctc × List Event} (hk : ∀ j c, c.Ok → (cascade j c).1.Ok) (i : CtcIx)
    (c : Ctc) (h : c.Ok) : (decrement cascade i c).1.Ok := by
  rcases decrement_spec cascade i c with ⟨hc, he⟩ | ⟨-, he⟩ <;> rw [he]
  · obtain ⟨hr, hi, hc', hp, hl⟩ := ((Ctc.ok_iff c).mp h).2.1 i
    refine Ctc.ok_setCh c i _ h ⟨hr, ?_, ?_, hp, hl⟩ rfl rfl
    · exact fun v hv => ⟨(hi v hv).1, by show 1 ≤ (c.ch i).counter - 1; omega⟩
    · show (c.ch i).counter - 1 ≤ 256
      omega
  · exact zeroCrossing_ok hk i c h

theorem trigger_ok (n : Nat) (j : CtcIx) (c : Ctc) (h : c.Ok) : (trigger n j c).1.Ok := by
  induction n generalizing j c with
  | zero => exact h
  | succ n ih =>
    have hj := ((Ctc.ok_iff c).mp h).2.1 j
    have hs (hl : (c.ch j).counterInit ≠ none) : (c.setCh j (c.ch j).start).Ok := by
      refine Ctc.ok_setCh c j _ h (CtcChannel.start_ok _ hj hl) ?_ ?_ <;> rw [CtcChannel.start_spec]
    rcases trigger_spec n j c with ⟨-, he⟩ | ⟨hl, -, he⟩ | ⟨hl, -, he⟩ <;> rw [he]
    · exact h
    · exact hs hl
    · exact decrement_ok ih j _ (hs hl)

/-- All that a pulse can do to its channel: the commit of a pending load, or one step of the prescaler, which counts when
it is full, or nothing. -/
theorem channelPulse_spec (i : CtcIx) (c : Ctc) :
    (∃ v, (c.ch i).pendingLoadValue = some v ∧ channelPulse i c = (c.setCh i ((c.ch i).commit v), [])) ∨
      ((c.ch i).pendingLoadValue = none ∧ (c.ch i).running = true ∧ (c.ch i).timerMode = true ∧
        (c.ch i).prescaler + 1 < (c.ch i).divisor ∧
        channelPulse i c = (c.setCh i { c.ch i with prescaler := (c.ch i).prescaler + 1 }, [])) ∨
      ((c.ch i).pendingLoadValue = none ∧ (c.ch i).running = true ∧ (c.ch i).timerMode = true ∧
        (c.ch i).divisor ≤ (c.ch i).prescaler + 1 ∧
        channelPulse i c = decrement (trigger cascadeDepth) i (c.setCh i { c.ch i with prescaler := 0 })) ∨
      ((c.ch i).pendingLoadValue = none ∧ ((c.ch i).running = false ∨ (c.ch i).timerMode = false) ∧
        channelPulse i c = (c, [])) := by
  unfold channelPulse
  cases hl : (c.ch i).pendingLoadValue with
  | some v => exact .inl ⟨v, rfl, rfl⟩
  | none =>
    cases hr : (c.ch i).running with
    | false => exact .inr (.inr (.inr ⟨rfl, .inl rfl, rfl⟩))
    | true =>
      cases ht : (c.ch i).timerMode with
      | false => exact .inr (.inr (.inr ⟨rfl, .inr rfl, rfl⟩))
      | true =>
        by_cases hd : (c.ch i).divisor ≤ (c.ch i).prescaler + 1
        · exact .inr (.inr (.inl ⟨rfl, rfl, rfl, hd, by simp [hd]⟩))
        · exact .inr (.inl ⟨rfl, rfl, rfl, by omega, by simp [hd]⟩)

theorem CtcChannel.commit_ok (c : CtcChannel) (v : Nat) (h : c.Ok) (hv : TimeConstant v) : (c.commit v).Ok := by
  obtain ⟨hr, hi, hc, hp, hl⟩ := h
  refine ⟨fun _ => rfl, fun w hw => ⟨Option.some.inj hw ▸ hv, ?_⟩, ?_, ?_, fun _ e => by cases e⟩
  · show 1 ≤ if c.running then c.counter else v
    cases hrun : c.running with
    | false => exact hv.1
    | true =>
      obtain ⟨u, hu⟩ := Option.isSome_iff_exists.mp (hr hrun)
      exact (hi u hu).2
  · show (if c.running then c.counter else v) ≤ 256
    split
    · exact hc
    · exact hv.2
  · show (if c.running then c.prescaler else 0) ≤ 255
    split
    · exact hp
    · omega

theorem channelPulse_ok (i : CtcIx) (c : Ctc) (h : c.Ok) : (channelPulse i c).1.Ok := by
  have hi := ((Ctc.ok_iff c).mp h).2.1 i
  rcases channelPulse_spec i c with ⟨v, hl, he⟩ | ⟨-, -, -, hd, he⟩ | ⟨-, -, -, -, he⟩ | ⟨-, -, he⟩ <;> rw [he]
  · refine Ctc.ok_setCh c i _ h (CtcChannel.commit_ok _ v hi ?_) rfl rfl
    exact hi.2.2.2.2 v hl
  · refine Ctc.ok_setCh c i _ h ⟨hi.1, hi.2.1, hi.2.2.1, ?_, hi.2.2.2.2⟩ rfl rfl
    show (c.ch i).prescaler + 1 ≤ 255
    unfold CtcChannel.divisor at hd
    split at hd <;> omega
  · refine decrement_ok (trigger_ok _) i _ (Ctc.ok_setCh c i _ h ⟨hi.1, hi.2.1, hi.2.2.1, ?_, hi.2.2.2.2⟩ rfl rfl)
    exact Nat.zero_le _
  · exact h

theorem ctcPulse_ok (c : Ctc) (h : c.Ok) : (ctcPulse c).1.Ok :=
  andThen_keeps (P := Ctc.Ok) (channelPulse_ok .c0)
    (andThen_keeps (P := Ctc.Ok) (channelPulse_ok .c1)
      (andThen_keeps (P := Ctc.Ok) (channelPulse_ok .c2) (channelPulse_ok .c3))) c h

/-! ## Reset (70_reset_and_hazards.md R302) -/

theorem Ctc.resetDevice_ch (c : Ctc) (p : Bool) (i : CtcIx) : (c.resetDevice p).ch i = (c.ch i).resetChannel p := by
  cases i <;> rfl

theorem Ctc.resetDevice_ok (c : Ctc) (p : Bool) (h : c.Ok) : (c.resetDevice p).Ok := by
  rw [Ctc.ok_iff] at h ⊢
  refine ⟨?_, fun i => ?_, Ctc.wiredOk_congr c _ ?_ ?_ h.2.2⟩
  · cases p
    · exact h.1
    · rfl
  · rw [Ctc.resetDevice_ch]
    refine ⟨by simp [CtcChannel.resetChannel, CtcChannel.powerOn], by simp [CtcChannel.resetChannel, CtcChannel.powerOn],
      ?_, by simp [CtcChannel.resetChannel, CtcChannel.powerOn], by simp [CtcChannel.resetChannel, CtcChannel.powerOn]⟩
    show (if p then 0 else (c.ch i).counter) ≤ 256
    split
    · omega
    · exact (h.2.1 i).2.2.1
  · intro i; rw [Ctc.resetDevice_ch]; rfl
  · intro i; rw [Ctc.resetDevice_ch]; rfl

/-! ## Cascade wiring (41_ctc.md R155) -/

theorem Ctc.leadsTo_congr (c d : Ctc) (h : ∀ i, (d.ch i).cascadeTo = (c.ch i).cascadeTo) (j : CtcIx) (n : Nat)
    (i : CtcIx) : d.leadsTo j n i = c.leadsTo j n i := by
  induction n generalizing i with
  | zero => rfl
  | succ n ih =>
    unfold Ctc.leadsTo
    rw [h i]
    cases (c.ch i).cascadeTo with
    | none => rfl
    | some k => simp only [ih k]

/-- The values of a cascade field. -/
def cascadeEnds : List (Option CtcIx) := [none, some .c0, some .c1, some .c2, some .c3]

theorem mem_cascadeEnds (o : Option CtcIx) : o ∈ cascadeEnds := by
  rcases o with _ | i
  · decide
  · cases i <;> decide

/-- A CTC of which only the links matter. -/
def Ctc.ofLinks (t0 t1 t2 t3 : Option CtcIx) : Ctc :=
  { vector := 0x00, ch0 := { CtcChannel.powerOn with cascadeTo := t0 }, ch1 := { CtcChannel.powerOn with cascadeTo := t1 },
    ch2 := { CtcChannel.powerOn with cascadeTo := t2 }, ch3 := { CtcChannel.powerOn with cascadeTo := t3 } }

/-- No chain of links is longer than three. -/
def Ctc.acyclic (c : Ctc) : Bool := CtcIx.all.all fun i => (c.follow 4 i).isNone

/-- Over all 625 wirings and 16 links: an allowed link closes no cycle. -/
theorem link_acyclic_ofLinks :
    (CtcIx.all.all fun src => CtcIx.all.all fun dst => cascadeEnds.all fun t0 => cascadeEnds.all fun t1 =>
      cascadeEnds.all fun t2 => cascadeEnds.all fun t3 =>
        !(Ctc.ofLinks t0 t1 t2 t3).acyclic || (Ctc.ofLinks t0 t1 t2 t3).leadsTo src 4 dst ||
          ((Ctc.ofLinks t0 t1 t2 t3).link src dst).acyclic) = true := by
  set_option maxRecDepth 100000 in decide

/-- The links after a new one. -/
theorem Ctc.link_cascadeTo (c : Ctc) (src dst i : CtcIx) :
    ((c.link src dst).ch i).cascadeTo = if i = src then some dst else (c.ch i).cascadeTo := by
  cases src <;> cases dst <;> cases i <;> rfl

theorem Ctc.link_cascadeFrom (c : Ctc) (src dst i : CtcIx) :
    ((c.link src dst).ch i).cascadeFrom = if i = dst then some src else (c.ch i).cascadeFrom := by
  cases src <;> cases dst <;> cases i <;> rfl

theorem Ctc.link_acyclic (c : Ctc) (src dst : CtcIx) (h : ∀ i ∈ CtcIx.all, c.follow 4 i = none)
    (hn : c.leadsTo src 4 dst = false) (i : CtcIx) : (c.link src dst).follow 4 i = none := by
  have htbl := link_acyclic_ofLinks
  simp only [List.all_eq_true] at htbl
  have ht := htbl src (CtcIx.mem_all _) dst (CtcIx.mem_all _) c.ch0.cascadeTo (mem_cascadeEnds _) c.ch1.cascadeTo
    (mem_cascadeEnds _) c.ch2.cascadeTo (mem_cascadeEnds _) c.ch3.cascadeTo (mem_cascadeEnds _)
  have hof (j : CtcIx) : ((Ctc.ofLinks c.ch0.cascadeTo c.ch1.cascadeTo c.ch2.cascadeTo c.ch3.cascadeTo).ch j).cascadeTo =
      (c.ch j).cascadeTo := by
    cases j <;> rfl
  have hac : (Ctc.ofLinks c.ch0.cascadeTo c.ch1.cascadeTo c.ch2.cascadeTo c.ch3.cascadeTo).acyclic = true := by
    simp only [Ctc.acyclic, List.all_eq_true]
    intro j hj
    rw [Ctc.follow_congr c _ hof, h j hj]
    rfl
  rw [hac, Ctc.leadsTo_congr c _ hof, hn] at ht
  simp only [Bool.not_true, Bool.false_or, Ctc.acyclic, List.all_eq_true, Option.isNone_iff_eq_none] at ht
  have := ht i (CtcIx.mem_all i)
  rw [← this]
  refine Ctc.follow_congr _ _ (fun j => ?_) 4 i
  rw [Ctc.link_cascadeTo, Ctc.link_cascadeTo, hof]

/-- All that `linkAllowed` asks. -/
theorem Ctc.linkAllowed_iff (c : Ctc) (src dst : CtcIx) :
    c.linkAllowed src dst = true ↔
      src ≠ dst ∧ (c.ch src).cascadeTo = none ∧ (c.ch dst).cascadeFrom = none ∧ c.leadsTo src 4 dst = false := by
  simp [Ctc.linkAllowed, and_assoc]

theorem Ctc.link_ok (c : Ctc) (src dst : CtcIx) (h : c.Ok) (hl : c.linkAllowed src dst = true) :
    (c.link src dst).Ok := by
  obtain ⟨-, hto, hfrom, hn⟩ := (Ctc.linkAllowed_iff c src dst).mp hl
  rw [Ctc.ok_iff] at h ⊢
  refine ⟨?_, fun i => ?_, fun a _ b _ => ?_, fun i _ => Ctc.link_acyclic c src dst h.2.2.2 hn i⟩
  · have := h.1
    cases src <;> cases dst <;> exact this
  · have := h.2.1 i
    cases src <;> cases dst <;> cases i <;> exact this
  · have hab := h.2.2.1
    rw [Ctc.link_cascadeTo, Ctc.link_cascadeFrom]
    by_cases ha : a = src
    · by_cases hb : b = dst
      · simp [ha, hb]
      · simp only [ha, hb, if_true, if_false, Option.some.injEq]
        constructor
        · intro e; exact absurd e.symm hb
        · intro e
          have := (hab src (CtcIx.mem_all _) b (CtcIx.mem_all _)).mpr e
          simp [hto] at this
    · by_cases hb : b = dst
      · simp only [ha, hb, if_true, if_false, Option.some.injEq]
        constructor
        · intro e
          have := (hab a (CtcIx.mem_all _) dst (CtcIx.mem_all _)).mp e
          simp [hfrom] at this
        · intro e; exact absurd e.symm ha
      · simp only [ha, hb, if_false]
        exact hab a (CtcIx.mem_all _) b (CtcIx.mem_all _)

end Sys2Proof.Machine
end

