-- ==== Sys2Proof/Laws/PerInstr.lean ====
section
/-! SUPPORT. Statements made per instruction. -/

namespace Sys2Proof.Laws.FrameLength

/-- Every instruction is written in eight bytes (log 1). -/
def Statement (i : Instr) : Prop := (encode i).length = 8

theorem ctcTc i sel t : Statement (.ctcTc i sel t) := rfl
theorem ctcVec i sel base ignored : Statement (.ctcVec i sel base ignored) := rfl
theorem ctcCw i sel w : Statement (.ctcCw i sel w) := rfl
theorem pioDir p m : Statement (.pioDir p m) := rfl
theorem pioImask p m : Statement (.pioImask p m) := rfl
theorem pioVec p v : Statement (.pioVec p v) := rfl
theorem pioMode p m ignored : Statement (.pioMode p m ignored) := rfl
theorem pioIcw p w : Statement (.pioIcw p w) := rfl
theorem pioIew p e ignored : Statement (.pioIew p e ignored) := rfl
theorem pioRsvd p ignored : Statement (.pioRsvd p ignored) := rfl
theorem pioRsvdB p ignored : Statement (.pioRsvdB p ignored) := rfl
theorem sioWr0Null c crc ptr : Statement (.sioWr0Null c crc ptr) := rfl
theorem sioWr0Cmd1None c crc ptr : Statement (.sioWr0Cmd1None c crc ptr) := rfl
theorem sioWr0ResetExtStatus c crc ptr : Statement (.sioWr0ResetExtStatus c crc ptr) := rfl
theorem sioWr0ChannelReset c crc ptr : Statement (.sioWr0ChannelReset c crc ptr) := rfl
theorem sioWr0EnableFirstChar c crc ptr : Statement (.sioWr0EnableFirstChar c crc ptr) := rfl
theorem sioWr0ResetTxInt c crc ptr : Statement (.sioWr0ResetTxInt c crc ptr) := rfl
theorem sioWr0ErrorReset c crc ptr : Statement (.sioWr0ErrorReset c crc ptr) := rfl
theorem sioWr0Reti c crc ptr : Statement (.sioWr0Reti c crc ptr) := rfl
theorem sioWr1 c w : Statement (.sioWr1 c w) := rfl
theorem sioWr2 c v : Statement (.sioWr2 c v) := rfl
theorem sioWr3 c w : Statement (.sioWr3 c w) := rfl
theorem sioWr4 c w : Statement (.sioWr4 c w) := rfl
theorem sioWr5 c w : Statement (.sioWr5 c w) := rfl
theorem sioWr6 c v : Statement (.sioWr6 c v) := rfl
theorem sioWr7 c v : Statement (.sioWr7 c v) := rfl
theorem sioRr0 c : Statement (.sioRr0 c) := rfl
theorem sioRr1 c : Statement (.sioRr1 c) := rfl
theorem ctcVector : Statement (.ctcVector) := rfl
theorem pioVector : Statement (.pioVector) := rfl
theorem sioVector : Statement (.sioVector) := rfl
theorem ctcWriteControl i b : Statement (.ctcWriteControl i b) := rfl
theorem ctcWriteData i b : Statement (.ctcWriteData i b) := rfl
theorem ctcReadData i : Statement (.ctcReadData i) := rfl
theorem ctcReadControl i : Statement (.ctcReadControl i) := rfl
theorem ctcOnClockPulses n : Statement (.ctcOnClockPulses n) := rfl
theorem ctcExternalEdge i rising : Statement (.ctcExternalEdge i rising) := rfl
theorem ctcExternalPulses i n : Statement (.ctcExternalPulses i n) := rfl
theorem ctcConnectCascade src dst : Statement (.ctcConnectCascade src dst) := rfl
theorem ctcIsRequested : Statement (.ctcIsRequested) := rfl
theorem ctcIsAccepted : Statement (.ctcIsAccepted) := rfl
theorem ctcAccept : Statement (.ctcAccept) := rfl
theorem ctcFinish : Statement (.ctcFinish) := rfl
theorem ctcStatusSnapshot : Statement (.ctcStatusSnapshot) := rfl
theorem ctcReset powerOn : Statement (.ctcReset powerOn) := rfl
theorem pioWriteControl p b : Statement (.pioWriteControl p b) := rfl
theorem pioWriteData p v : Statement (.pioWriteData p v) := rfl
theorem pioReadData p : Statement (.pioReadData p) := rfl
theorem pioReadControl p : Statement (.pioReadControl p) := rfl
theorem pioPutInValue p v m strobe : Statement (.pioPutInValue p v m strobe) := rfl
theorem pioFetchOutValue p strobe : Statement (.pioFetchOutValue p strobe) := rfl
theorem pioOnClockPulses n : Statement (.pioOnClockPulses n) := rfl
theorem pioIsRequested : Statement (.pioIsRequested) := rfl
theorem pioIsAccepted : Statement (.pioIsAccepted) := rfl
theorem pioAccept : Statement (.pioAccept) := rfl
theorem pioFinish : Statement (.pioFinish) := rfl
theorem pioStatusSnapshot : Statement (.pioStatusSnapshot) := rfl
theorem pioReset powerOn : Statement (.pioReset powerOn) := rfl
theorem sioWriteControl c b : Statement (.sioWriteControl c b) := rfl
theorem sioReadControl c : Statement (.sioReadControl c) := rfl
theorem sioWriteData c v : Statement (.sioWriteData c v) := rfl
theorem sioReadData c : Statement (.sioReadData c) := rfl
theorem sioAvailable c : Statement (.sioAvailable c) := rfl
theorem sioPutToReceiver c v : Statement (.sioPutToReceiver c v) := rfl
theorem sioClockPulseReceiver c n : Statement (.sioClockPulseReceiver c n) := rfl
theorem sioClockPulseSender c n : Statement (.sioClockPulseSender c n) := rfl
theorem sioSetClearToSend c level : Statement (.sioSetClearToSend c level) := rfl
theorem sioSetDataCarrierDetect c level : Statement (.sioSetDataCarrierDetect c level) := rfl
theorem sioOnClockPulses n : Statement (.sioOnClockPulses n) := rfl
theorem sioIsRequested : Statement (.sioIsRequested) := rfl
theorem sioIsAccepted : Statement (.sioIsAccepted) := rfl
theorem sioAccept : Statement (.sioAccept) := rfl
theorem sioFinish : Statement (.sioFinish) := rfl
theorem sioStatusSnapshot : Statement (.sioStatusSnapshot) := rfl
theorem sioReset powerOn : Statement (.sioReset powerOn) := rfl
theorem sioSetReg c n b : Statement (.sioSetReg c n b) := rfl
theorem chainRequest : Statement (.chainRequest) := rfl
theorem chainAccept : Statement (.chainAccept) := rfl
theorem chainFinish : Statement (.chainFinish) := rfl

end Sys2Proof.Laws.FrameLength
end

