-- ==== Sys2Proof/Laws/Pio.lean ====
section
/-! SUPPORT. One lemma for each operation of the PIO, saying once what it can do, and that each keeps the PIO's
invariant. -/

namespace Sys2Proof.Machine

/-! ## The invariant, port by port -/

theorem Pio.ok_iff (d : Pio) :
    d.Ok ↔ (∀ p, (d.port p).Ok) ∧ (d.port .b).mode ≠ .byteInOut ∧ (d.resetState = true → ∀ p, (d.port p).AsReset) := by
  constructor
  · rintro ⟨ha, hb, hm, hr⟩
    exact ⟨fun p => by cases p <;> assumption, hm, fun h p => by
      cases p
      · exact (hr h).1
      · exact (hr h).2⟩
  · rintro ⟨h, hm, hr⟩
    exact ⟨h .a, h .b, hm, fun e => ⟨hr e .a, hr e .b⟩⟩

/-- A change of one port outside reset that keeps the port's invariant keeps the device's. -/
theorem Pio.ok_setPort (d : Pio) (p : Side) (v : PioPort) (h : d.Ok) (hr : d.resetState = false) (hv : v.Ok)
    (hm : p = .b → v.mode ≠ .byteInOut) : (d.setPort p v).Ok := by
  rw [Pio.ok_iff] at h ⊢
  refine ⟨fun q => ?_, ?_, fun e => by simp [hr] at e⟩
  · rw [Pio.port_setPort]; split
    · exact hv
    · exact h.1 q
  · rw [Pio.port_setPort]; split
    · next e => exact hm e.symm
    · exact h.2.1

theorem PioPort.recomputeCondition_spec (p : PioPort) :
    p.recomputeCondition = { p with conditionCurrentlyFulfilled := p.mode == .bitInOut && p.conditionOf } := rfl

/-- The condition is that of the lines, whatever the other fields (42_pio.md R186). -/
theorem PioPort.conditionOf_congr (p q : PioPort) (h1 : q.inputRegister = p.inputRegister)
    (h2 : q.outputRegister = p.outputRegister) (h3 : q.inputDirectionMask = p.inputDirectionMask)
    (h4 : q.bitMask = p.bitMask) (h5 : q.fireOnHigh = p.fireOnHigh) (h6 : q.bitsAndCombined = p.bitsAndCombined) :
    q.conditionOf = p.conditionOf := by
  unfold PioPort.conditionOf PioPort.lines
  rw [h1, h2, h3, h4, h5, h6]

theorem PioPort.recomputeCondition_ok (p : PioPort) (h : p.nextControl ≠ .command → p.mode = .bitInOut) :
    p.recomputeCondition.Ok :=
  ⟨h, rfl⟩

theorem PioPort.checkBitIO_ok (p : PioPort) (h : p.mode = .bitInOut) : p.checkBitIO.Ok :=
  ⟨fun _ => h, by
    show p.conditionOf = (p.mode == .bitInOut && _)
    rw [h]
    rfl⟩

/-! ## Control writes (42_pio.md R170 to R177) -/

/-- All that a mode word can do. -/
theorem Pio.writeMode_spec (d : Pio) (p : Side) (m : PioMode) :
    (p = .b ∧ m = .byteInOut ∧ d.writeMode p m = none) ∨
      (p = .b ∧ m ≠ .byteInOut ∧
        d.writeMode p m = some { d with
          portB := PioPort.recomputeCondition { d.portB with
            mode := m
            ready := d.portB.ready && (d.portA.mode == .byteInOut)
            nextControl := if m = .bitInOut then .directionMask else .command } }) ∨
      (p = .a ∧
        d.writeMode p m = some { d with
          portA := PioPort.recomputeCondition { d.portA with
            mode := m
            ready := false
            nextControl := if m = .bitInOut then .directionMask else .command }
          portB := if d.portA.mode = .byteInOut ∨ m = .byteInOut then { d.portB with ready := false } else d.portB }) := by
  cases p with
  | a =>
    refine .inr (.inr ⟨rfl, ?_⟩)
    simp only [Pio.writeMode, Pio.aBidir, Pio.modPort, Pio.port, Pio.setPort, beq_iff_eq, reduceCtorEq, false_and, if_false,
      decide_false, Bool.false_and, Bool.and_false, true_and, Option.some.injEq]
    split <;> rfl
  | b =>
    by_cases hm : m = .byteInOut
    · exact .inl ⟨rfl, hm, by simp [Pio.writeMode, hm]⟩
    · refine .inr (.inl ⟨rfl, hm, ?_⟩)
      simp [Pio.writeMode, hm, Pio.modPort, Pio.port, Pio.setPort, Pio.aBidir]

theorem PioPort.writeCondition_ok (q : PioPort) (w : PioCondition) (h : q.Ok) : (q.writeCondition w).Ok := by
  refine PioPort.recomputeCondition_ok _ fun hn => ?_
  by_cases hm : w.maskFollows = true ∧ q.mode = .bitInOut
  · exact hm.2
  · simp only [hm, if_false] at hn
    exact h.1 hn

/-- All that a control byte can do, by the format it decodes to (30_encoding.md R85); the shared latch is clear after it. -/
theorem pioWrite_eq (p : Side) (b : Byte) (d : Pio) :
    pioWrite p b d =
      match decodePio (d.port p).nextControl b with
      | .direction m => some (({ d with resetState := false } : Pio).modPort p fun q =>
          PioPort.recomputeCondition { q with inputDirectionMask := m, nextControl := .command }, [])
      | .interruptMask m => some (({ d with resetState := false } : Pio).modPort p fun q =>
          PioPort.recomputeCondition { q with bitMask := m, nextControl := .command }, [])
      | .vector v => some (({ d with resetState := false } : Pio).modPort p fun q => { q with vector := v ++ 0#1 }, [])
      | .mode m _ => (({ d with resetState := false } : Pio).writeMode p m).map fun d' => (d', [])
      | .condition w => some (({ d with resetState := false } : Pio).modPort p fun q => q.writeCondition w,
          enableEvents p (d.port p).intEnabled w.interruptEnable)
      | .enable e _ => some (({ d with resetState := false } : Pio).modPort p fun q => { q with intEnabled := e },
          enableEvents p (d.port p).intEnabled e)
      | .reserved _ => some ({ d with resetState := false }, [])
      | .reservedB _ => some ({ d with resetState := false }, []) := by
  cases p <;> rfl

theorem Pio.modPort_ok (e : Pio) (p : Side) (f : PioPort → PioPort) (h : e.Ok) (hr : e.resetState = false)
    (hf : (e.port p).Ok → (f (e.port p)).Ok) (hm : (f (e.port p)).mode = (e.port p).mode) : (e.modPort p f).Ok := by
  refine Pio.ok_setPort e p _ h hr (hf (((Pio.ok_iff e).mp h).1 p)) ?_
  rintro rfl
  rw [hm]
  exact ((Pio.ok_iff e).mp h).2.1

theorem Pio.writeMode_ok (e : Pio) (p : Side) (m : PioMode) (h : e.Ok) (hr : e.resetState = false) (e' : Pio)
    (he : e.writeMode p m = some e') : e'.Ok ∧ e'.resetState = false := by
  have hmode (m : PioMode) : (if m = .bitInOut then NextControl.directionMask else .command) ≠ .command → m = .bitInOut := by
    cases m <;> simp
  rcases Pio.writeMode_spec e p m with ⟨-, -, hn⟩ | ⟨-, hm, hs⟩ | ⟨-, hs⟩
  · simp [hn] at he
  · rw [hs] at he
    cases he
    refine ⟨⟨h.1, PioPort.recomputeCondition_ok _ (hmode m), hm, fun e => by simp [hr] at e⟩, hr⟩
  · rw [hs] at he
    cases he
    refine ⟨⟨PioPort.recomputeCondition_ok _ (hmode m), ?_, ?_, fun e => by simp [hr] at e⟩, hr⟩
    · show PioPort.Ok (if _ then _ else _)
      split
      · exact h.2.1
      · exact h.2.1
    · show (if _ then _ else _ : PioPort).mode ≠ _
      split
      · exact h.2.2.1
      · exact h.2.2.1

/-- Every control write leaves a device with the invariant and the latch clear, or is refused. -/
theorem pioWrite_ok (p : Side) (b : Byte) (d : Pio) (h : d.Ok) (r : Pio × List Event) (hr : pioWrite p b d = some r) :
    r.1.Ok ∧ r.1.resetState = false := by
  have h' : Pio.Ok { d with resetState := false } := ⟨h.1, h.2.1, h.2.2.1, fun e => by cases e⟩
  rw [pioWrite_eq] at hr
  split at hr
  · cases hr
    exact ⟨Pio.modPort_ok _ p _ h' rfl (fun _ => PioPort.recomputeCondition_ok _ (by simp)) rfl, by simp [Pio.modPort]⟩
  · cases hr
    exact ⟨Pio.modPort_ok _ p _ h' rfl (fun _ => PioPort.recomputeCondition_ok _ (by simp)) rfl, by simp [Pio.modPort]⟩
  · cases hr
    exact ⟨Pio.modPort_ok _ p _ h' rfl id rfl, by simp [Pio.modPort]⟩
  · next m _ _ =>
    obtain ⟨e', he, rfl⟩ := Option.map_eq_some_iff.mp hr
    exact Pio.writeMode_ok _ p m h' rfl e' he
  · cases hr
    exact ⟨Pio.modPort_ok _ p _ h' rfl (PioPort.writeCondition_ok _ _) rfl, by simp [Pio.modPort]⟩
  · cases hr
    exact ⟨Pio.modPort_ok _ p _ h' rfl id rfl, by simp [Pio.modPort]⟩
  · cases hr; exact ⟨h', rfl⟩
  · cases hr; exact ⟨h', rfl⟩

/-! ## Data paths -/

theorem Pio.mode_of_resetState (d : Pio) (h : d.Ok) (hr : d.resetState = true) (p : Side) :
    (d.port p).mode = .byteIn := (((Pio.ok_iff d).mp h).2.2 hr p).1

/-- A change of the registers data moves through, with the latch set, keeps the invariant. -/
theorem Pio.ok_setPort_reset (d : Pio) (p : Side) (v : PioPort) (h : d.Ok) (hv : v.Ok)
    (hm : v.mode = (d.port p).mode) (hr : d.resetState = true → v.AsReset) : (d.setPort p v).Ok := by
  rw [Pio.ok_iff] at h ⊢
  refine ⟨fun q => ?_, ?_, fun e q => ?_⟩
  · rw [Pio.port_setPort]; split
    · exact hv
    · exact h.1 q
  · rw [Pio.port_setPort]; split
    · next e => rw [hm, ← e]; exact h.2.1
    · exact h.2.1
  · rw [Pio.setPort_resetState] at e
    rw [Pio.port_setPort]; split
    · exact hr e
    · exact h.2.2 e q

/-- Outside bit mode the condition stays false whatever the registers hold. -/
theorem PioPort.ok_of_notBit (q q' : PioPort) (h : q.Ok) (hm : q.mode ≠ .bitInOut) (h1 : q'.mode = q.mode)
    (h2 : q'.nextControl = q.nextControl) (h3 : q'.conditionCurrentlyFulfilled = q.conditionCurrentlyFulfilled) :
    q'.Ok := by
  refine ⟨by rw [h1, h2]; exact h.1, ?_⟩
  rw [h3, h.2, h1]
  cases hq : q.mode with
  | bitInOut => exact absurd hq hm
  | byteOut => rfl
  | byteIn => rfl
  | byteInOut => rfl

/-- A change of one port that keeps its mode and its invariant, and with the latch set what reset gave it, keeps the
device's invariant. -/
theorem Pio.ok_modPort (d : Pio) (p : Side) (f : PioPort → PioPort) (h : d.Ok) (hf : (f (d.port p)).Ok)
    (hm : (f (d.port p)).mode = (d.port p).mode) (hr : d.resetState = true → (f (d.port p)).AsReset) :
    (d.modPort p f).Ok :=
  Pio.ok_setPort_reset d p _ h hf hm hr

@[simp] theorem Pio.modPort_resetState (d : Pio) (p : Side) (f : PioPort → PioPort) :
    (d.modPort p f).resetState = d.resetState := by
  cases p <;> rfl

@[simp] theorem Pio.modPort_modPort (d : Pio) (p : Side) (f g : PioPort → PioPort) :
    (d.modPort p f).modPort p g = d.modPort p fun q => g (f q) := by
  cases p <;> rfl

/-- With the latch clear nothing is to be as reset left it. -/
theorem Pio.notReset {d : Pio} {P : Prop} (hr : d.resetState = false) : d.resetState = true → P := by
  simp [hr]

/-- Storing in the output register, without or with `ready`, keeps the invariant outside bit mode. -/
theorem Pio.storeOutput_ok (d : Pio) (p : Side) (v : Byte) (h : d.Ok) (hm : (d.port p).mode ≠ .bitInOut) :
    (d.modPort p fun q => { q with outputRegister := v }).Ok ∧
      (d.resetState = false → (d.modPort p fun q => { q with outputRegister := v, ready := true }).Ok) := by
  have hp := ((Pio.ok_iff d).mp h).1 p
  exact ⟨Pio.ok_modPort d p _ h (PioPort.ok_of_notBit _ _ hp hm rfl rfl rfl) rfl fun hr => ((Pio.ok_iff d).mp h).2.2 hr p,
    fun hr => Pio.ok_modPort d p _ h (PioPort.ok_of_notBit _ _ hp hm rfl rfl rfl) rfl (Pio.notReset hr)⟩

/-- A data write keeps the invariant (42_pio.md R179). -/
theorem pioWriteData_ok (p : Side) (v : Byte) (d : Pio) (h : d.Ok) : (pioWriteData p v d).1.Ok := by
  have hmr := Pio.mode_of_resetState d h
  have hstore := Pio.storeOutput_ok d p v h
  unfold pioWriteData
  cases hr : d.resetState with
  | true => exact (hstore (by rw [hmr hr]; decide)).1
  | false =>
    simp only [Bool.false_eq_true, if_false]
    cases hm : (d.port p).mode with
    | byteOut => simpa only [Pio.modPort_modPort] using (hstore (by simp [hm])).2 hr
    | byteIn => exact (hstore (by simp [hm])).1
    | byteInOut => simpa only [Pio.modPort_modPort] using (hstore (by simp [hm])).2 hr
    | bitInOut =>
      simp only [Pio.modPort_modPort]
      exact Pio.ok_modPort d p _ h (PioPort.checkBitIO_ok _ hm) rfl (Pio.notReset hr)

/-- A data read keeps the invariant (42_pio.md R180). -/
theorem pioReadData_ok (p : Side) (d : Pio) (h : d.Ok) : (pioReadData p d).1.Ok := by
  have hall := (Pio.ok_iff d).mp h
  have hmask (q : Side) : (d.modPort q fun r => { r with valueMask := 0x00 }).Ok :=
    Pio.ok_modPort d q _ h (hall.1 q) rfl fun hr => hall.2.2 hr q
  unfold pioReadData
  cases hm : (d.port p).mode with
  | byteOut => exact h
  | byteIn =>
    dsimp only
    split
    · exact hmask p
    · next hc =>
      have hr : d.resetState = false := by cases hd : d.resetState <;> simp_all
      exact Pio.ok_modPort _ p _ (hmask p) (((Pio.ok_iff _).mp (hmask p)).1 p) rfl (Pio.notReset (by simpa using hr))
  | byteInOut =>
    dsimp only
    split
    · exact hmask .a
    · next hc =>
      exact Pio.ok_modPort _ .b _ (hmask .a) (((Pio.ok_iff _).mp (hmask .a)).1 .b) rfl
        (Pio.notReset (by simpa using hc))
  | bitInOut => exact hmask p

theorem PioPort.requestInterrupt_ok (q : PioPort) (h : q.Ok) : q.requestInterrupt.Ok := h

/-- A put keeps the invariant (42_pio.md R182). -/
theorem pioPut_ok (p : Side) (v m : Byte) (strobe : Bool) (d : Pio) (h : d.Ok) : (pioPut p v m strobe d).Ok := by
  have hall := (Pio.ok_iff d).mp h
  have hmr := Pio.mode_of_resetState d h
  have hput (hm : (d.port p).mode ≠ .bitInOut) :
      (d.modPort p fun q =>
        { q with
          inputRegister := (q.inputRegister &&& ~~~m) ||| (v &&& m)
          valueMask := q.valueMask ||| m }).Ok :=
    Pio.ok_modPort d p _ h (PioPort.ok_of_notBit _ _ (hall.1 p) hm rfl rfl rfl) rfl fun hr => hall.2.2 hr p
  unfold pioPut
  cases hr : d.resetState with
  | true => exact hput (by rw [hmr hr]; decide)
  | false =>
    simp only [Bool.false_eq_true, if_false]
    cases hm : (d.port p).mode with
    | byteOut => exact hput (by simp [hm])
    | byteIn =>
      have h1 := hput (by simp [hm])
      have hp1 := ((Pio.ok_iff _).mp h1).1 p
      dsimp only
      split
      · exact h1
      · refine Pio.ok_modPort _ p _ h1 ?_ ?_ (Pio.notReset (by simpa using hr))
        · cases strobe <;> exact hp1
        · cases strobe <;> rfl
    | byteInOut =>
      have h1 := hput (by simp [hm])
      have h2 := Pio.ok_modPort _ .b (fun q => { q with ready := true }) h1 (((Pio.ok_iff _).mp h1).1 .b) rfl
        (Pio.notReset (by simpa using hr))
      refine Pio.ok_modPort _ .a _ h2 ?_ ?_ (Pio.notReset (by simpa using hr))
      · have := ((Pio.ok_iff _).mp h2).1 .a
        cases strobe <;> exact this
      · cases strobe <;> rfl
    | bitInOut =>
      simp only [Pio.modPort_modPort]
      exact Pio.ok_modPort d p _ h (PioPort.checkBitIO_ok _ hm) rfl (Pio.notReset hr)

/-- A fetch keeps the invariant (42_pio.md R183). -/
theorem pioFetch_ok (p : Side) (strobe : Bool) (d : Pio) (h : d.Ok) : (pioFetch p strobe d).Ok := by
  have hall := (Pio.ok_iff d).mp h
  unfold pioFetch
  split
  · exact h
  · next hc =>
    have hr : d.resetState = false := by cases hd : d.resetState <;> simp_all
    cases hm : (d.port p).mode with
    | byteOut =>
      dsimp only
      split
      · exact h
      · exact Pio.ok_modPort d p _ h (hall.1 p) rfl (Pio.notReset hr)
    | byteIn => exact h
    | byteInOut => exact Pio.ok_modPort d .a _ h (hall.1 .a) rfl (Pio.notReset hr)
    | bitInOut => exact h

/-- A reset leaves the invariant, whatever went before (70_reset_and_hazards.md R303). -/
theorem Pio.resetDevice_ok (d : Pio) (powerOn : Bool) : (d.resetDevice powerOn).Ok := by
  have hport (q : PioPort) : (q.resetPort powerOn).Ok ∧ (q.resetPort powerOn).AsReset := by
    cases powerOn <;> exact ⟨⟨fun h => absurd rfl h, rfl⟩, rfl, rfl, rfl, rfl, rfl, rfl, rfl, rfl, rfl, rfl, rfl⟩
  refine ⟨(hport _).1, (hport _).1, ?_, fun _ => ⟨(hport _).2, (hport _).2⟩⟩
  rw [show (d.resetDevice powerOn).portB.mode = .byteIn from (hport _).2.1]
  decide

end Sys2Proof.Machine
end

