-- ==== Sys2Proof/Laws/Sio.lean ====
section
/-! SUPPORT. One lemma for each operation of the SIO, saying once what it can do, and that each keeps the SIO's
invariant. -/

namespace Sys2Proof.Machine

/-! ## Updates of one channel -/

@[simp] theorem State.modSio_ctc (s : State) (c : Side) (f : SioChannel → SioChannel) : (s.modSio c f).ctc = s.ctc := rfl
@[simp] theorem State.modSio_pio (s : State) (c : Side) (f : SioChannel → SioChannel) : (s.modSio c f).pio = s.pio := rfl
@[simp] theorem State.modSio_sio (s : State) (c : Side) (f : SioChannel → SioChannel) :
    (s.modSio c f).sio = s.sio.setCh c (f (s.sio.ch c)) := rfl
@[simp] theorem State.modSio_wiring (s : State) (c : Side) (f : SioChannel → SioChannel) :
    (s.modSio c f).wiring = s.wiring := rfl
@[simp] theorem State.modSio_ctcOperated (s : State) (c : Side) (f : SioChannel → SioChannel) :
    (s.modSio c f).ctcOperated = s.ctcOperated := rfl
@[simp] theorem State.modSio_input (s : State) (c : Side) (f : SioChannel → SioChannel) :
    (s.modSio c f).input = s.input := rfl
@[simp] theorem State.modSio_reply (s : State) (c : Side) (f : SioChannel → SioChannel) :
    (s.modSio c f).reply = s.reply := rfl
@[simp] theorem State.modSio_trace (s : State) (c : Side) (f : SioChannel → SioChannel) :
    (s.modSio c f).trace = s.trace := rfl
@[simp] theorem State.modSio_draws (s : State) (c : Side) (f : SioChannel → SioChannel) :
    (s.modSio c f).draws = s.draws := rfl

@[simp] theorem State.modSio_modSio (s : State) (c : Side) (f g : SioChannel → SioChannel) :
    (s.modSio c f).modSio c g = s.modSio c fun q => g (f q) := by
  cases c <;> rfl

/-! ## The invariant, channel by channel -/

theorem Sio.ok_iff (d : Sio) : d.Ok ↔ ∀ c, (d.ch c).Ok :=
  ⟨fun h c => by cases c <;> [exact h.1; exact h.2], fun h => ⟨h .a, h .b⟩⟩

theorem Sio.ok_setCh (d : Sio) (c : Side) (v : SioChannel) (h : d.Ok) (hv : v.Ok) : (d.setCh c v).Ok := by
  rw [Sio.ok_iff] at h ⊢
  intro e
  rw [Sio.ch_setCh]
  split
  · exact hv
  · exact h e

theorem SioChannel.resetChannel_ok (q : SioChannel) (powerOn : Bool) : (q.resetChannel powerOn).Ok := by
  cases powerOn <;>
    exact ⟨Nat.zero_le _, by simp [SioChannel.resetChannel, SioChannel.powerOn], Nat.zero_le _, Nat.zero_le _,
      Nat.zero_le _, Nat.zero_le _, fun _ => rfl, fun _ => rfl⟩

theorem Sio.resetDevice_ok (d : Sio) (powerOn : Bool) : (d.resetDevice powerOn).Ok :=
  ⟨SioChannel.resetChannel_ok _ _, SioChannel.resetChannel_ok _ _⟩

theorem SioChannel.setFlags_ok (q : SioChannel) (k : SioKind) (r a : Bool) (h : q.Ok) : (q.setFlags k r a).Ok := by
  cases k <;> exact h

/-! ## Control writes (43_sio.md R210 to R219) -/

/-- All that a control byte can do: with the pointer at 0 it is stored and its command runs; else it is stored in the
register the pointer addresses. -/
theorem State.sioWriteByte_spec (s : State) (c : Side) (b : Byte) :
    ((s.sio.ch c).wr.pointer = 0 ∧
        s.sioWriteByte c b =
          sioCommand c (decodeSioCommand (b.extractLsb' 3 3))
            (s.modSio c fun q => { q with wr := { q.wr with wr0 := b } })) ∨
      ((s.sio.ch c).wr.pointer ≠ 0 ∧ s.sioWriteByte c b = s.modSio c fun q => q.storeRegister q.wr.pointer b) := by
  unfold State.sioWriteByte
  generalize (s.sio.ch c).wr.pointer = p
  have hp : p = 0 ∧ decodeSio p b = .wr0 (decodeSioCommand (b.extractLsb' 3 3)) (b.extractLsb' 6 2) (b.extractLsb' 0 3) ∨
      p ≠ 0 ∧ ∀ cmd crc ptr, decodeSio p b ≠ .wr0 cmd crc ptr := by
    refine eight_registers (P := fun p => p = 0 ∧ decodeSio p b =
      .wr0 (decodeSioCommand (b.extractLsb' 3 3)) (b.extractLsb' 6 2) (b.extractLsb' 0 3) ∨
      p ≠ 0 ∧ ∀ cmd crc ptr, decodeSio p b ≠ .wr0 cmd crc ptr) (.inl ⟨rfl, rfl⟩) ?_ ?_ ?_ ?_ ?_ ?_ ?_ p <;>
      exact .inr ⟨by decide, fun _ _ _ h => by cases h⟩
  rcases hp with ⟨h0, hd⟩ | ⟨hne, hd⟩
  · exact .inl ⟨h0, by rw [hd]⟩
  · refine .inr ⟨hne, ?_⟩
    split
    · next cmd crc ptr h => exact absurd h (hd cmd crc ptr)
    · rfl

theorem sioCommand_ok (c : Side) (cmd : SioCommand) (s : State) (h : s.sio.Ok) : (sioCommand c cmd s).sio.Ok := by
  have hc := (Sio.ok_iff _).mp h c
  cases cmd with
  | null => exact h
  | cmd1None => exact h
  | resetExtStatus => exact Sio.ok_setCh _ c _ h hc
  | channelReset => exact Sio.ok_setCh _ c _ h (SioChannel.resetChannel_ok _ _)
  | enableFirstChar => exact Sio.ok_setCh _ c _ h hc
  | resetTxInt => exact Sio.ok_setCh _ c _ h hc
  | errorReset => exact Sio.ok_setCh _ c _ h hc
  | reti =>
    cases c with
    | b => exact h
    | a =>
      show (finishDevice .sio s).sio.Ok
      rcases finishDevice_spec .sio s with ⟨pre, x, post, hl, -, -, he⟩ | ⟨-, he⟩ <;> rw [he]
      · rcases x with i | p | ⟨e, k⟩
        · exact h
        · exact h
        · exact Sio.ok_setCh _ e _ h (SioChannel.setFlags_ok _ _ _ _ ((Sio.ok_iff _).mp h e))
      · exact h

theorem State.sioWriteByte_ok (s : State) (c : Side) (b : Byte) (h : s.sio.Ok) : (s.sioWriteByte c b).sio.Ok := by
  have hc := (Sio.ok_iff _).mp h c
  rcases State.sioWriteByte_spec s c b with ⟨-, he⟩ | ⟨-, he⟩ <;> rw [he]
  · exact sioCommand_ok c _ _ (Sio.ok_setCh _ c _ h hc)
  · exact Sio.ok_setCh _ c _ h hc

/-! ## Reads -/

/-- All that a control read can do (43_sio.md R220): the pointer goes back to 0 and a status byte or a free byte is the
reply. -/
theorem State.sioReadControl_spec (s : State) (c : Side) :
    (s.sioReadControl c).sio = s.sio.setCh c { s.sio.ch c with wr := (s.sio.ch c).wr.clearPointer } ∧
      (s.sioReadControl c).reply =
        .byte (if (s.sio.ch c).wr.pointer = 0 then s.rr0 c
          else if (s.sio.ch c).wr.pointer = 1 then (s.sio.ch c).rr1 else Config.freeByte s.draws) := by
  unfold State.sioReadControl
  dsimp only
  by_cases h0 : (s.sio.ch c).wr.pointer = 0
  · simp only [h0, if_true]; exact ⟨rfl, rfl⟩
  · by_cases h1 : (s.sio.ch c).wr.pointer = 1
    · simp only [h1, if_true]; exact ⟨rfl, rfl⟩
    · simp only [h0, h1, if_false]; exact ⟨rfl, rfl⟩

/-- All that a data read can do (43_sio.md R224): the oldest entry leaves, or a free byte is the reply. -/
theorem State.sioReadData_spec (s : State) (c : Side) :
    ((s.sio.ch c).receiveFifoLen = 0 ∧ s.sioReadData c = s.returnDraw) ∨
      ((s.sio.ch c).receiveFifoLen ≠ 0 ∧
        s.sioReadData c = (s.modSio c fun q =>
          { q with receiveFifo := q.receiveFifo.shift, receiveFifoLen := q.receiveFifoLen - 1 }).returning
            (.byte (s.sio.ch c).receiveFifo.e0.value)) := by
  unfold State.sioReadData
  by_cases h : (s.sio.ch c).receiveFifoLen = 0
  · exact .inl ⟨h, by simp [h]⟩
  · exact .inr ⟨h, by simp [h]⟩

theorem State.sioReadControl_ok (s : State) (c : Side) (h : s.sio.Ok) : (s.sioReadControl c).sio.Ok := by
  rw [(State.sioReadControl_spec s c).1]
  exact Sio.ok_setCh _ c _ h ((Sio.ok_iff _).mp h c)

theorem State.sioReadData_ok (s : State) (c : Side) (h : s.sio.Ok) : (s.sioReadData c).sio.Ok := by
  rcases State.sioReadData_spec s c with ⟨-, he⟩ | ⟨-, he⟩ <;> rw [he]
  · exact h
  · obtain ⟨h3, hrest⟩ := (Sio.ok_iff _).mp h c
    exact Sio.ok_setCh _ c _ h ⟨by show _ - 1 ≤ 3; omega, hrest⟩

/-! ## Ranges of the timing (43_sio.md R226) -/

theorem characterBits_range (code : BitVec 2) : 5 ≤ characterBits code ∧ characterBits code ≤ 8 := by
  revert code
  decide

theorem SioChannel.clockDiv_range (q : SioChannel) : 1 ≤ q.clockDiv ∧ q.clockDiv ≤ 64 := by
  unfold SioChannel.clockDiv
  generalize (decodeWr4 q.wr.wr4).clockRate = code
  revert code
  decide

theorem SioChannel.stopClocks_le (q : SioChannel) : q.stopClocks ≤ 2 := by
  unfold SioChannel.stopClocks
  generalize (decodeWr4 q.wr.wr4).stopBits = code
  revert code
  decide

theorem SioChannel.parityClock_le (q : SioChannel) : q.parityClock ≤ 1 := by
  unfold SioChannel.parityClock
  cases (decodeWr4 q.wr.wr4).parityEnable <;> decide

theorem SioChannel.rxFrame_range (q : SioChannel) : 5 ≤ q.rxFrame ∧ q.rxFrame ≤ 11 := by
  have := characterBits_range (decodeWr3 q.wr.wr3).rxBits
  have := q.stopClocks_le
  have := q.parityClock_le
  unfold SioChannel.rxFrame SioChannel.rxDataBits
  omega

theorem SioChannel.txFrame_range (q : SioChannel) : 5 ≤ q.txFrame ∧ q.txFrame ≤ 11 := by
  have := characterBits_range (decodeWr5 q.wr.wr5).txBits
  have := q.stopClocks_le
  have := q.parityClock_le
  unfold SioChannel.txFrame SioChannel.txDataBits
  omega

/-! ## Receiver (43_sio.md R228 to R231) -/

/-- All that a put can do: it is taken, or nothing happens. -/
theorem SioChannel.putByte_spec (q : SioChannel) (v : Byte) :
    (q.takesByte = true ∧ q.putByte v = { q with rxShiftBuffer := v, rxBitsRemaining := q.rxFrame, rxDivAcc := 0 }) ∨
      (q.takesByte = false ∧ q.putByte v = q) := by
  unfold SioChannel.putByte
  cases q.takesByte
  · exact .inr ⟨rfl, rfl⟩
  · exact .inl ⟨rfl, rfl⟩

theorem SioChannel.putByte_ok (q : SioChannel) (v : Byte) (h : q.Ok) : (q.putByte v).Ok := by
  obtain ⟨h1, h2, h3, h4, h5, h6, h7, h8⟩ := h
  have hf := q.rxFrame_range
  rcases SioChannel.putByte_spec q v with ⟨-, he⟩ | ⟨-, he⟩ <;> rw [he]
  · exact ⟨h1, h2, h3, hf.2, h5, Nat.zero_le _, h7, fun _ => rfl⟩
  · exact ⟨h1, h2, h3, h4, h5, h6, h7, h8⟩

/-- A receive interrupt changes two flags only. -/
theorem SioChannel.receiveInterrupt_spec (q : SioChannel) :
    ∃ r a, q.receiveInterrupt = { q with rxRequested := r, rxFirstCharArmed := a } := by
  unfold SioChannel.receiveInterrupt
  dsimp only
  split
  · exact ⟨q.rxRequested, q.rxFirstCharArmed, rfl⟩
  · split
    · exact ⟨_, _, rfl⟩
    · exact ⟨true, q.rxFirstCharArmed, rfl⟩

theorem SioChannel.receiveInterrupt_ok (q : SioChannel) (h : q.Ok) : q.receiveInterrupt.Ok := by
  obtain ⟨r, a, he⟩ := q.receiveInterrupt_spec
  rw [he]
  exact h

theorem SioChannel.receiveComplete_ok (q : SioChannel) (h : q.Ok) : q.receiveComplete.Ok := by
  obtain ⟨h1, hrest⟩ := h
  apply SioChannel.receiveInterrupt_ok
  split
  · next hl => exact ⟨by show _ + 1 ≤ 3; have : Config.fifoDepth = 3 := rfl; omega, hrest⟩
  · exact ⟨h1, hrest⟩

/-- All that a receive pulse can do: nothing to an idle receiver, a step of the divider, a step of the frame, or the end of
the frame. -/
theorem SioChannel.rxPulse_spec (q : SioChannel) :
    (q.rxBitsRemaining = 0 ∧ q.rxPulse = q) ∨
      (q.rxBitsRemaining ≠ 0 ∧ q.rxDivAcc + 1 < q.clockDiv ∧ q.rxPulse = { q with rxDivAcc := q.rxDivAcc + 1 }) ∨
      (1 < q.rxBitsRemaining ∧ q.clockDiv ≤ q.rxDivAcc + 1 ∧
        q.rxPulse = { q with rxDivAcc := 0, rxBitsRemaining := q.rxBitsRemaining - 1 }) ∨
      (q.rxBitsRemaining = 1 ∧ q.clockDiv ≤ q.rxDivAcc + 1 ∧
        q.rxPulse = SioChannel.receiveComplete { q with rxDivAcc := 0, rxBitsRemaining := 0 }) := by
  unfold SioChannel.rxPulse
  by_cases h0 : q.rxBitsRemaining = 0
  · exact .inl ⟨h0, by simp [h0]⟩
  · by_cases hd : q.rxDivAcc + 1 < q.clockDiv
    · exact .inr (.inl ⟨h0, hd, by simp [h0, hd]⟩)
    · by_cases h1 : q.rxBitsRemaining = 1
      · exact .inr (.inr (.inr ⟨h1, by omega, by simp [h1, hd]⟩))
      · refine .inr (.inr (.inl ⟨by omega, by omega, ?_⟩))
        have : q.rxBitsRemaining - 1 ≠ 0 := by omega
        simp [h0, hd, this]

theorem SioChannel.rxPulse_ok (q : SioChannel) (h : q.Ok) : q.rxPulse.Ok := by
  have hdiv := q.clockDiv_range
  obtain ⟨h1, h2, h3, h4, h5, h6, h7, h8⟩ := h
  rcases q.rxPulse_spec with ⟨-, he⟩ | ⟨hn, hd, he⟩ | ⟨hb, hd, he⟩ | ⟨hb, hd, he⟩ <;> rw [he]
  · exact ⟨h1, h2, h3, h4, h5, h6, h7, h8⟩
  · exact ⟨h1, h2, h3, h4, h5, by show _ + 1 ≤ 63; omega, h7, fun e => absurd e hn⟩
  · exact ⟨h1, h2, h3, by show _ - 1 ≤ 11; omega, h5, Nat.zero_le _, h7, fun _ => rfl⟩
  · exact SioChannel.receiveComplete_ok _ ⟨h1, h2, h3, Nat.zero_le _, h5, Nat.zero_le _, h7, fun _ => rfl⟩

/-! ## Transmitter (43_sio.md R232, R233) -/

/-- A frame is under way after `startFrame`, with the timing registers and the byte as they were. -/
theorem SioChannel.startFrame_spec (q : SioChannel) :
    q.startFrame = { q with
      txBitsRemaining := if q.txBitsRemaining = 0 then q.txFrame else q.txBitsRemaining
      txDivAcc := if q.txBitsRemaining = 0 then 0 else q.txDivAcc } := by
  unfold SioChannel.startFrame
  by_cases h : q.txBitsRemaining = 0
  · simp [h]
  · simp [h]

/-- All that a transmit pulse can do: nothing when there is nothing to send or no valid timing, else a step of the divider,
a step of the frame, or the end of the frame with its event. -/
theorem SioChannel.txPulse_spec (c : Side) (q : SioChannel) :
    ((q.txBufferEmpty = true ∨ q.txValid = false) ∧ q.txPulse c = (q, [])) ∨
      (q.txBufferEmpty = false ∧ q.txValid = true ∧ q.startFrame.txDivAcc + 1 < q.clockDiv ∧
        q.txPulse c = ({ q.startFrame with txDivAcc := q.startFrame.txDivAcc + 1 }, [])) ∨
      (q.txBufferEmpty = false ∧ q.txValid = true ∧ q.clockDiv ≤ q.startFrame.txDivAcc + 1 ∧
        1 < q.startFrame.txBitsRemaining ∧
        q.txPulse c =
          ({ q.startFrame with txDivAcc := 0, txBitsRemaining := q.startFrame.txBitsRemaining - 1 }, [])) ∨
      (q.txBufferEmpty = false ∧ q.txValid = true ∧ q.clockDiv ≤ q.startFrame.txDivAcc + 1 ∧
        q.startFrame.txBitsRemaining ≤ 1 ∧
        q.txPulse c =
          (SioChannel.transmitComplete { q.startFrame with txDivAcc := 0, txBitsRemaining := 0 },
            [.byteTransmitted c (maskToWidth q.txDataBits q.txBuffer)])) := by
  have hdiv : q.startFrame.clockDiv = q.clockDiv := by rw [SioChannel.startFrame_spec]; rfl
  have hbits : q.startFrame.txDataBits = q.txDataBits := by rw [SioChannel.startFrame_spec]; rfl
  have hbuf : q.startFrame.txBuffer = q.txBuffer := by rw [SioChannel.startFrame_spec]
  unfold SioChannel.txPulse
  cases he : q.txBufferEmpty with
  | true => exact .inl ⟨.inl rfl, rfl⟩
  | false =>
    cases hv : q.txValid with
    | false => exact .inl ⟨.inr rfl, rfl⟩
    | true =>
      simp only [Bool.not_true, Bool.or_self, Bool.false_eq_true, if_false, hdiv]
      by_cases hd : q.startFrame.txDivAcc + 1 < q.clockDiv
      · exact .inr (.inl ⟨trivial, trivial, hd, by simp [hd]⟩)
      · by_cases h1 : q.startFrame.txBitsRemaining ≤ 1
        · refine .inr (.inr (.inr ⟨trivial, trivial, by omega, h1, ?_⟩))
          have h0 : q.startFrame.txBitsRemaining - 1 = 0 := by omega
          simp only [hd, h0, if_false, if_true]
          rw [← hbits, ← hbuf]
          rfl
        · refine .inr (.inr (.inl ⟨trivial, trivial, by omega, by omega, ?_⟩))
          have h0 : q.startFrame.txBitsRemaining - 1 ≠ 0 := by omega
          simp [hd, h0]

theorem SioChannel.txPulse_ok (c : Side) (q : SioChannel) (h : q.Ok) : (q.txPulse c).1.Ok := by
  have hdiv := q.clockDiv_range
  have hf := q.txFrame_range
  obtain ⟨h1, h2, h3, h4, h5, h6, h7, h8⟩ := h
  have hb : q.startFrame.txBitsRemaining = if q.txBitsRemaining = 0 then q.txFrame else q.txBitsRemaining := by
    rw [SioChannel.startFrame_spec]
  have hb' : 1 ≤ q.startFrame.txBitsRemaining ∧ q.startFrame.txBitsRemaining ≤ 11 := by
    rw [hb]; split <;> omega
  rcases q.txPulse_spec c with ⟨-, he⟩ | ⟨hn, -, hd, he⟩ | ⟨hn, -, -, hm, he⟩ | ⟨hn, -, -, -, he⟩ <;> rw [he]
  · exact ⟨h1, h2, h3, h4, h5, h6, h7, h8⟩
  · refine ⟨?_, fun _ => ?_, hb'.2, ?_, ?_, ?_, ?_, ?_⟩
    · rw [SioChannel.startFrame_spec]; exact h1
    · rw [SioChannel.startFrame_spec]; exact hn
    · rw [SioChannel.startFrame_spec]; exact h4
    · show _ + 1 ≤ 63; omega
    · rw [SioChannel.startFrame_spec]; exact h6
    · intro e; have : q.startFrame.txBitsRemaining = 0 := e; omega
    · rw [SioChannel.startFrame_spec]; exact h8
  · refine ⟨?_, fun _ => ?_, ?_, ?_, Nat.zero_le _, ?_, fun _ => rfl, ?_⟩
    · rw [SioChannel.startFrame_spec]; exact h1
    · rw [SioChannel.startFrame_spec]; exact hn
    · show _ - 1 ≤ 11; omega
    · rw [SioChannel.startFrame_spec]; exact h4
    · rw [SioChannel.startFrame_spec]; exact h6
    · rw [SioChannel.startFrame_spec]; exact h8
  · rw [SioChannel.startFrame_spec]
    exact ⟨h1, fun e => absurd e (Nat.lt_irrefl 0), Nat.zero_le _, h4, Nat.zero_le _, h6, fun _ => rfl, h8⟩

/-! ## The device's clock (43_sio.md R236) -/

theorem sioRxPulse_ok (c : Side) (d : Sio) (h : d.Ok) : (sioRxPulse c d).1.Ok :=
  Sio.ok_setCh d c _ h (SioChannel.rxPulse_ok _ ((Sio.ok_iff d).mp h c))

theorem sioTxPulse_ok (c : Side) (d : Sio) (h : d.Ok) : (sioTxPulse c d).1.Ok :=
  Sio.ok_setCh d c _ h (SioChannel.txPulse_ok c _ ((Sio.ok_iff d).mp h c))

theorem onSystemClock_ok (src : ClockSource) {f : Sio → Sio × List Event} (hf : ∀ d, d.Ok → (f d).1.Ok) (d : Sio)
    (h : d.Ok) : (onSystemClock src f d).1.Ok := by
  cases src
  · exact hf d h
  · exact h

theorem sioPulse_ok (w : Wiring) (d : Sio) (h : d.Ok) : (sioPulse w d).1.Ok :=
  andThen_keeps (P := Sio.Ok) (onSystemClock_ok _ (sioRxPulse_ok .a))
    (andThen_keeps (P := Sio.Ok) (onSystemClock_ok _ (sioTxPulse_ok .a))
      (andThen_keeps (P := Sio.Ok) (onSystemClock_ok _ (sioRxPulse_ok .b)) (onSystemClock_ok _ (sioTxPulse_ok .b)))) d h

end Sys2Proof.Machine
end

