-- ==== Sys2Proof/Tests/Slice0.lean ====
section
/-! SUPPORT. Tests: the smoke test of WellFormed, a frame for every instruction written out from the spec's encodings, one
small step for each shape of operation with the values of 95_test_vectors.md, and a witness for every statement that has
hypotheses. -/

namespace Sys2Proof.Tests

open Sys2Proof.Machine

/-! ## WellFormed: each check refuses an ill-formed term -/

theorem test_wf_setReg_zero : (Instr.sioSetReg .a 0 0x00).wellFormed = false := by decide
theorem test_wf_setReg_one : (Instr.sioSetReg .a 1 0x00).wellFormed = true := by decide
theorem test_wf_externalPulses : (Instr.ctcExternalPulses .c0 4294967296).wellFormed = false := by decide
theorem test_wf_receiverPulses : (Instr.sioClockPulseReceiver .a 4294967296).wellFormed = false := by decide
theorem test_wf_senderPulses : (Instr.sioClockPulseSender .b 4294967296).wellFormed = false := by decide

/-! ## Decoding: the data byte of each frame is written bit by bit from 30_encoding.md; the rest of a frame is log 1 -/

/-- 30_encoding.md R82, R83, R84: `CTC.CW` with IE and `/256`, `CTC.VEC` of base 0x40, `CTC.TC` 10. -/
theorem test_decode_ctc_bytes :
    decode [0b10100111, 2, 0, 0, 0, 0, 0, 0] = .ok (.ctcCw .c0 .control ⟨true, false, true, false, false, true, true⟩) ∧
      decode [0b01011001, 2, 1, 2, 0, 0, 0, 0] = .ok (.ctcCw .c1 .data ⟨false, true, false, true, true, false, false⟩) ∧
      decode [0b01000110, 2, 2, 0, 0, 0, 0, 0] = .ok (.ctcVec .c2 .control 0b01000 0b11) ∧
      decode [0b00001011, 2, 3, 1, 0, 0, 0, 0] = .ok (.ctcTc .c3 .control 0b00001011) := by decide

/-- 30_encoding.md R86 to R92. -/
theorem test_decode_pio_bytes :
    decode [0b00001111, 1, 0, 0, 0, 0, 0, 0] = .ok (.pioMode .a .byteOut 0b00) ∧
      decode [0b01011111, 1, 0, 0, 0, 0, 0, 0] = .ok (.pioMode .a .byteIn 0b01) ∧
      decode [0b10101111, 1, 0, 0, 0, 0, 0, 0] = .ok (.pioMode .a .byteInOut 0b10) ∧
      decode [0b11001111, 1, 1, 0, 0, 0, 0, 0] = .ok (.pioMode .b .bitInOut 0b00) ∧
      decode [0b10010111, 1, 1, 0, 0, 0, 0, 0] = .ok (.pioIcw .b ⟨true, false, false, true⟩) ∧
      decode [0b01100111, 1, 0, 0, 0, 0, 0, 0] = .ok (.pioIcw .a ⟨false, true, true, false⟩) ∧
      decode [0b11010011, 1, 0, 0, 0, 0, 0, 0] = .ok (.pioIew .a true 0b101) ∧
      decode [0b01010000, 1, 0, 0, 0, 0, 0, 0] = .ok (.pioVec .a 0b0101000) ∧
      decode [0b11110000, 1, 1, 1, 0, 0, 0, 0] = .ok (.pioDir .b 0b11110000) ∧
      decode [0b00111111, 1, 1, 2, 0, 0, 0, 0] = .ok (.pioImask .b 0b00111111) := by decide

theorem test_decode_pio_reserved :
    decode [0b00000001, 1, 0, 0, 0, 0, 0, 0] = .ok (.pioRsvd .a 0b000000) ∧
      decode [0b10000101, 1, 0, 0, 0, 0, 0, 0] = .ok (.pioRsvd .a 0b100001) ∧
      decode [0b00111001, 1, 0, 0, 0, 0, 0, 0] = .ok (.pioRsvd .a 0b001110) ∧
      decode [0b11111101, 1, 0, 0, 0, 0, 0, 0] = .ok (.pioRsvd .a 0b111111) ∧
      decode [0b10101011, 1, 0, 0, 0, 0, 0, 0] = .ok (.pioRsvdB .a 0b1010) := by decide

/-- 30_encoding.md R94: the command in bits 5:3, the CRC code in 7:6, the pointer in 2:0. -/
theorem test_decode_sio_commands :
    decode [0b00000100, 0, 0, 0, 0, 0, 0, 0] = .ok (.sioWr0Null .a 0b00 0b100) ∧
      decode [0b01001000, 0, 0, 0, 0, 0, 0, 0] = .ok (.sioWr0Cmd1None .a 0b01 0b000) ∧
      decode [0b00010001, 0, 0, 0, 0, 0, 0, 0] = .ok (.sioWr0ResetExtStatus .a 0b00 0b001) ∧
      decode [0b00011000, 0, 0, 0, 0, 0, 0, 0] = .ok (.sioWr0ChannelReset .a 0b00 0b000) ∧
      decode [0b10100000, 0, 1, 0, 0, 0, 0, 0] = .ok (.sioWr0EnableFirstChar .b 0b10 0b000) ∧
      decode [0b00101111, 0, 1, 0, 0, 0, 0, 0] = .ok (.sioWr0ResetTxInt .b 0b00 0b111) ∧
      decode [0b00110000, 0, 0, 0, 0, 0, 0, 0] = .ok (.sioWr0ErrorReset .a 0b00 0b000) ∧
      decode [0b11111000, 0, 0, 0, 0, 0, 0, 0] = .ok (.sioWr0Reti .a 0b11 0b000) := by decide

/-- 30_encoding.md R95 to R102. -/
theorem test_decode_sio_registers :
    decode [0b10110101, 0, 0, 1, 0, 0, 0, 0] = .ok (.sioWr1 .a ⟨0b101, 0b10, true, false, true⟩) ∧
      decode [0b11100000, 0, 1, 2, 0, 0, 0, 0] = .ok (.sioWr2 .b 0xE0) ∧
      decode [0b11000001, 0, 0, 3, 0, 0, 0, 0] = .ok (.sioWr3 .a ⟨0b11, 0b00000, true⟩) ∧
      decode [0b01001101, 0, 0, 4, 0, 0, 0, 0] = .ok (.sioWr4 .a ⟨0b01, 0b00, 0b11, false, true⟩) ∧
      decode [0b01101000, 0, 0, 5, 0, 0, 0, 0] = .ok (.sioWr5 .a ⟨false, 0b11, false, true, false, false, false⟩) ∧
      decode [0b00010110, 0, 0, 6, 0, 0, 0, 0] = .ok (.sioWr6 .a 0x16) ∧
      decode [0b00010111, 0, 0, 7, 0, 0, 0, 0] = .ok (.sioWr7 .a 0x17) ∧
      decode [0, 3, 0, 0, 0, 0, 0, 0] = .ok (.sioRr0 .a) ∧ decode [0, 4, 1, 0, 0, 0, 0, 0] = .ok (.sioRr1 .b) := by
  decide

theorem test_decode_ctc_operations :
    decode [0x40, 16, 3, 0, 0, 0, 0, 0] = .ok (.ctcWriteControl .c3 0x40) ∧
      decode [0x0A, 17, 0, 0, 0, 0, 0, 0] = .ok (.ctcWriteData .c0 0x0A) ∧
      decode [0, 18, 1, 0, 0, 0, 0, 0] = .ok (.ctcReadData .c1) ∧
      decode [0, 19, 2, 0, 0, 0, 0, 0] = .ok (.ctcReadControl .c2) ∧
      decode [0, 20, 0, 0, 0x01, 0x0A, 0, 0] = .ok (.ctcOnClockPulses 2561) ∧
      decode [0, 21, 1, 0, 1, 0, 0, 0] = .ok (.ctcExternalEdge .c1 true) ∧
      decode [0, 22, 1, 0, 7, 0, 0, 0] = .ok (.ctcExternalPulses .c1 7) ∧
      decode [0, 23, 0, 1, 0, 0, 0, 0] = .ok (.ctcConnectCascade .c0 .c1) ∧
      decode [0, 29, 0, 0, 1, 0, 0, 0] = .ok (.ctcReset true) := by decide

theorem test_decode_ctc_contract :
    decode [0, 24, 0, 0, 0, 0, 0, 0] = .ok .ctcIsRequested ∧ decode [0, 25, 0, 0, 0, 0, 0, 0] = .ok .ctcIsAccepted ∧
      decode [0, 26, 0, 0, 0, 0, 0, 0] = .ok .ctcAccept ∧ decode [0, 27, 0, 0, 0, 0, 0, 0] = .ok .ctcFinish ∧
      decode [0, 28, 0, 0, 0, 0, 0, 0] = .ok .ctcStatusSnapshot ∧ decode [0, 5, 0, 0, 0, 0, 0, 0] = .ok .ctcVector := by
  decide

theorem test_decode_pio_operations :
    decode [0xCF, 32, 0, 0, 0, 0, 0, 0] = .ok (.pioWriteControl .a 0xCF) ∧
      decode [0x5A, 33, 0, 0, 0, 0, 0, 0] = .ok (.pioWriteData .a 0x5A) ∧
      decode [0, 34, 1, 0, 0, 0, 0, 0] = .ok (.pioReadData .b) ∧
      decode [0, 35, 1, 0, 0, 0, 0, 0] = .ok (.pioReadControl .b) ∧
      decode [0x12, 36, 0, 0xFF, 1, 0, 0, 0] = .ok (.pioPutInValue .a 0x12 0xFF true) ∧
      decode [0, 37, 0, 0, 1, 0, 0, 0] = .ok (.pioFetchOutValue .a true) ∧
      decode [0, 38, 0, 0, 0xFF, 0xFF, 0xFF, 0xFF] = .ok (.pioOnClockPulses 0xFFFFFFFF) ∧
      decode [0, 44, 0, 0, 0, 0, 0, 0] = .ok (.pioReset false) := by decide

theorem test_decode_pio_contract :
    decode [0, 39, 0, 0, 0, 0, 0, 0] = .ok .pioIsRequested ∧ decode [0, 40, 0, 0, 0, 0, 0, 0] = .ok .pioIsAccepted ∧
      decode [0, 41, 0, 0, 0, 0, 0, 0] = .ok .pioAccept ∧ decode [0, 42, 0, 0, 0, 0, 0, 0] = .ok .pioFinish ∧
      decode [0, 43, 0, 0, 0, 0, 0, 0] = .ok .pioStatusSnapshot ∧ decode [0, 6, 0, 0, 0, 0, 0, 0] = .ok .pioVector := by
  decide

theorem test_decode_sio_operations :
    decode [0x18, 48, 0, 0, 0, 0, 0, 0] = .ok (.sioWriteControl .a 0x18) ∧
      decode [0, 49, 1, 0, 0, 0, 0, 0] = .ok (.sioReadControl .b) ∧
      decode [0x55, 50, 0, 0, 0, 0, 0, 0] = .ok (.sioWriteData .a 0x55) ∧
      decode [0, 51, 0, 0, 0, 0, 0, 0] = .ok (.sioReadData .a) ∧
      decode [0, 52, 0, 0, 0, 0, 0, 0] = .ok (.sioAvailable .a) ∧
      decode [0x41, 53, 0, 0, 0, 0, 0, 0] = .ok (.sioPutToReceiver .a 0x41) ∧
      decode [0, 54, 0, 0, 0x90, 0, 0, 0] = .ok (.sioClockPulseReceiver .a 144) ∧
      decode [0, 55, 1, 0, 0, 1, 0, 0] = .ok (.sioClockPulseSender .b 256) := by decide

theorem test_decode_sio_lines :
    decode [0, 56, 0, 0, 1, 0, 0, 0] = .ok (.sioSetClearToSend .a true) ∧
      decode [0, 57, 1, 0, 0, 0, 0, 0] = .ok (.sioSetDataCarrierDetect .b false) ∧
      decode [0, 58, 0, 0, 143, 0, 0, 0] = .ok (.sioOnClockPulses 143) ∧
      decode [0, 64, 0, 0, 1, 0, 0, 0] = .ok (.sioReset true) ∧
      decode [0x44, 65, 0, 4, 0, 0, 0, 0] = .ok (.sioSetReg .a 4 0x44) := by decide

theorem test_decode_sio_contract :
    decode [0, 59, 0, 0, 0, 0, 0, 0] = .ok .sioIsRequested ∧ decode [0, 60, 0, 0, 0, 0, 0, 0] = .ok .sioIsAccepted ∧
      decode [0, 61, 0, 0, 0, 0, 0, 0] = .ok .sioAccept ∧ decode [0, 62, 0, 0, 0, 0, 0, 0] = .ok .sioFinish ∧
      decode [0, 63, 0, 0, 0, 0, 0, 0] = .ok .sioStatusSnapshot ∧ decode [0, 7, 0, 0, 0, 0, 0, 0] = .ok .sioVector := by
  decide

theorem test_decode_chain :
    decode [0, 80, 0, 0, 0, 0, 0, 0] = .ok .chainRequest ∧ decode [0, 81, 0, 0, 0, 0, 0, 0] = .ok .chainAccept ∧
      decode [0, 82, 0, 0, 0, 0, 0, 0] = .ok .chainFinish := by decide

/-- 93_implementation_defined.md U1, and frames that are no operation. -/
theorem test_decode_refuses :
    decode [0x40, 16, 4, 0, 0, 0, 0, 0] = .error .indexOutOfRange ∧
      decode [0x40, 32, 2, 0, 0, 0, 0, 0] = .error .indexOutOfRange ∧
      decode [0x40, 65, 0, 0, 0, 0, 0, 0] = .error .indexOutOfRange ∧
      decode [0x40, 65, 0, 8, 0, 0, 0, 0] = .error .indexOutOfRange ∧
      decode [0, 99, 0, 0, 0, 0, 0, 0] = .error .unknownOperation ∧
      decode [1, 26, 0, 0, 0, 0, 0, 0] = .error .strayBits ∧ decode [0x40] = .error .badLength := by decide

theorem test_table_word : decodeTableWord 8 0x18 = some (.sioWr0ChannelReset .a 0 0) := by decide

/-- A table word placed as the next operation of reset is decoded and run by the next step: the PIO mode word of the S7 scenario. -/
theorem test_step_runs_word :
    (match step (State.reset.withFetchWord 16 0x010F) with
      | .next t => t.pio.portA.mode
      | _ => .byteIn) = .byteOut := by decide

/-! ## Steps, with the values of 95_test_vectors.md -/

/-- The next state, if there is one. -/
def run (i : Instr) (s : State) : Option State :=
  match exec i s with
  | .next t => some t
  | _ => none

/-- Why an instruction is refused, if it is. -/
def refusal (i : Instr) (s : State) : Option Refusal :=
  match exec i s with
  | .refused r => some r
  | _ => none

/-- Reset with channel `i` of the CTC as given and the vector 0xE0. -/
def withCtc (i : CtcIx) (q : CtcChannel) : State :=
  { State.reset with ctc := { Ctc.powerOn with vector := 0xE0 }.setCh i q }

/-- Reset with the latch clear and a port as given. -/
def withPort (p : Side) (q : PioPort) : State :=
  { State.reset with pio := { Pio.powerOn with resetState := false }.setPort p q }

/-- Reset with an SIO channel as given. -/
def withSio (c : Side) (q : SioChannel) : State := { State.reset with sio := Sio.powerOn.setCh c q }

/-- A running timer, `/256`, constant 10, one pulse before its zero-crossing, enabled (program P1, step 5). -/
def lastPulse : CtcChannel :=
  { CtcChannel.powerOn with
    counterInit := some 10, counter := 1, prescaler := 255, prescaler256 := true, running := true,
    interruptEnabled := true }

/-- A running counter on rising edges, constant 3, at 2 (V-CTC-5). -/
def counting : CtcChannel :=
  { CtcChannel.powerOn with
    counterInit := some 3, counter := 2, timerMode := false, triggerEdgeHigh := true, running := true,
    interruptEnabled := true }

/-- A port in bit mode, all lines inputs, lines 7 and 6 monitored, AND, active high, enabled (program P3, step 5). -/
def bitPort : PioPort :=
  { PioPort.powerOn with
    mode := .bitInOut, bitMask := 0x3F, fireOnHigh := true, bitsAndCombined := true, intEnabled := true, vector := 0x50 }

/-- A port in an output mode, enabled, offering 0x5A (V-PIO-3). -/
def outPort : PioPort :=
  { PioPort.powerOn with mode := .byteOut, outputRegister := 0x5A, ready := true, intEnabled := true, vector := 0x22 }

/-- A channel with `wr[4]` = 0x44, `wr[3]` = 0xC1, `wr[5]` = 0x68, `wr[1]` = 0x12: x16, one stop bit, 8 bits, both
directions enabled, every character and the empty buffer request (V-SIO-9, program P4). -/
def line : SioChannel :=
  { SioChannel.powerOn with wr := ⟨0x00, 0x12, 0x00, 0xC1, 0x44, 0x68, 0x00, 0x00⟩ }

/-- The same channel one pulse before the end of a received frame, its FIFO full (program P4, step 5). -/
def lastBit : SioChannel :=
  { line with
    rxShiftBuffer := 0x44, rxBitsRemaining := 1, rxDivAcc := 15, receiveFifoLen := 3,
    receiveFifo := ⟨⟨0x11, false⟩, ⟨0x22, false⟩, ⟨0x33, false⟩⟩ }

/-! ### CTC -/

/-- P1 step 2: the control word 0xA7. -/
theorem test_ctcCw : (run (.ctcCw .c0 .control ⟨true, false, true, false, false, true, true⟩) State.reset).map
      (fun t => t.ctc.ch0) =
    some { CtcChannel.powerOn with interruptEnabled := true, prescaler256 := true, expectTimeConstant := true } := by decide

/-- V-CTC-4: the control word 0x03 resets channel and flags, and keeps the counter. -/
theorem test_ctcWriteControl_reset : (run (.ctcWriteControl .c0 0x03)
      (withCtc .c0 { lastPulse with interruptRequested := true })).map (fun t => t.ctc.ch0) =
    some { CtcChannel.powerOn with counter := 1, prescaler := 255 } := by decide

/-- V-CTC-1 step 2: a byte that looks like a vector word is the time constant. -/
theorem test_ctcTc : (run (.ctcTc .c3 .control 0x40) (withCtc .c3 { CtcChannel.powerOn with expectTimeConstant := true })).map
      (fun t => (t.ctc.ch3.pendingLoadValue, t.ctc.ch3.expectTimeConstant, t.ctc.vector)) =
    some (some 64, false, 0xE0) := by decide

/-- V-CTC-2: time constant 0 is 256. -/
theorem test_ctcWriteData : (run (.ctcWriteData .c0 0x00) (withCtc .c0 { CtcChannel.powerOn with expectTimeConstant := true })).map
      (fun t => t.ctc.ch0.pendingLoadValue) = some (some 256) := by decide

/-- V-CTC-1 step 4: the vector's low three bits are dropped. -/
theorem test_ctcVec : (run (.ctcVec .c2 .control 0b11111 0b11) State.reset).map (fun t => t.ctc.vector) = some 0xF8 := by
  decide

/-- V-CTC-2: 256 reads as 0x00. -/
theorem test_ctcReadData : (run (.ctcReadData .c0) (withCtc .c0 { CtcChannel.powerOn with counter := 256 })).map State.reply =
    some (.byte 0x00) := by decide

theorem test_ctcReadControl : (run (.ctcReadControl .c0) (withCtc .c0 { CtcChannel.powerOn with counter := 10 })).map State.reply =
    some (.byte 0x0A) := by decide

/-- Reset with channel `i` feeding channel `j`. -/
def linked (i j : CtcIx) (p q : CtcChannel) : State :=
  { State.reset with
    ctc := (Ctc.powerOn.setCh i { p with cascadeTo := some j }).setCh j { q with cascadeFrom := some i } }

/-- A running timer, `/16`, constant 2, one pulse before its zero-crossing (program P2, step 7). -/
def feeding : CtcChannel :=
  { CtcChannel.powerOn with counterInit := some 2, counter := 1, prescaler := 15, running := true }

/-- P2 step 8: a clock pulse crosses zero and triggers the successor, which crosses zero and requests; its event is first. -/
theorem test_ctcOnClockPulses_cascade : (run (.ctcOnClockPulses 1) (linked .c0 .c1 feeding { counting with counter := 1 })).map
      (fun t => (t.ctc.ch0.counter, t.ctc.ch0.prescaler, t.ctc.ch1.counter, t.ctc.ch1.interruptRequested, t.trace)) =
    some (2, 0, 3, true, [.zeroCrossing .c1, .zeroCrossing .c0]) := by decide

/-- V-CTC-8: the prescaler beyond its new divisor overflows. -/
theorem test_ctcOnClockPulses_prescaler : (run (.ctcOnClockPulses 1)
      (withCtc .c1 { lastPulse with prescaler256 := false, prescaler := 100, counter := 5 })).map
      (fun t => (t.ctc.ch1.counter, t.ctc.ch1.prescaler)) = some (4, 0) := by decide

/-- V-CTC-5: the falling edge does not qualify, the rising one counts. -/
theorem test_ctcExternalEdge : (run (.ctcExternalEdge .c1 true) (withCtc .c1 { counting with counter := 3 })).map
      (fun t => t.ctc.ch1.counter) = some 2 := by decide
theorem test_ctcExternalEdge_falling : (run (.ctcExternalEdge .c1 false) (withCtc .c1 counting)).map
      (fun t => t.ctc.ch1.counter) = some 2 := by decide

/-- V-CTC-5: seven pulses from 2. -/
theorem test_ctcExternalPulses : (run (.ctcExternalPulses .c1 7) (withCtc .c1 counting)).map
      (fun t => (t.ctc.ch1.counter, t.ctc.ch1.interruptRequested, t.trace)) =
    some (1, true, [.zeroCrossing .c1, .zeroCrossing .c1]) := by decide

/-- Channel 0 counts into channel 1; both are one pulse before a zero-crossing. -/
def cascaded : State := linked .c0 .c1 { counting with counter := 1 } { counting with counter := 1 }

/-- 41_ctc.md R150: the successor's event comes first. -/
theorem test_cascade_order : (run (.ctcExternalPulses .c0 1) cascaded).map
      (fun t => (t.ctc.ch0.counter, t.ctc.ch1.counter, t.trace)) =
    some (3, 3, [.zeroCrossing .c1, .zeroCrossing .c0]) := by decide

theorem test_ctcConnectCascade : (run (.ctcConnectCascade .c0 .c1) State.reset).map
      (fun t => (t.ctc.ch0.cascadeTo, t.ctc.ch1.cascadeFrom)) = some (some .c1, some .c0) := by decide
theorem test_ctcConnectCascade_refused : refusal (.ctcConnectCascade .c1 .c1) State.reset = some .badCascade := by decide

/-- V-CTC-9: the lower channel first, vector 0xE0 + 2. -/
theorem test_ctcAccept : (run .ctcAccept { State.reset with
      ctc := { Ctc.powerOn with
        vector := 0x10, ch1 := { lastPulse with interruptRequested := true }
        ch3 := { lastPulse with interruptRequested := true } } }).map
      (fun t => (t.reply, t.ctc.ch1.interruptAccepted, t.ctc.ch3.interruptRequested)) =
    some (.byte 0x12, true, true) := by decide
theorem test_ctcVector : (run .ctcVector (withCtc .c3 { lastPulse with interruptRequested := true })).map State.reply =
    some (.byte 0xE6) := by decide

/-- P1 steps 9 and 10: a request is held back while in service; `finish` shows it. -/
theorem test_ctcIsRequested : (run .ctcIsRequested
      (withCtc .c0 { lastPulse with interruptRequested := true, interruptAccepted := true })).map State.reply =
    some (.bool false) := by decide
theorem test_ctcIsAccepted : (run .ctcIsAccepted (withCtc .c0 { lastPulse with interruptAccepted := true })).map State.reply =
    some (.bool true) := by decide
theorem test_ctcFinish : (run .ctcFinish
      (withCtc .c0 { lastPulse with interruptRequested := true, interruptAccepted := true })).map
      (fun t => (t.ctc.ch0.interruptRequested, t.ctc.ch0.interruptAccepted)) = some (true, false) := by decide
theorem test_ctcStatusSnapshot : (run .ctcStatusSnapshot State.reset).map State.reply = some (.ctcReport .powerOn) := by
  decide

/-- V-RST-1. -/
theorem test_ctcReset_warm : (run (.ctcReset false) (withCtc .c0 { lastPulse with counter := 2, prescaler := 3 })).map
      (fun t => (t.ctc.vector, t.ctc.ch0)) = some (0xE0, { CtcChannel.powerOn with counter := 2 }) := by decide
theorem test_ctcReset_powerOn : (run (.ctcReset true) (withCtc .c0 lastPulse)).map State.ctc = some .powerOn := by decide

/-! ### PIO -/

/-- V-PIO-2 steps 1 to 7. -/
theorem test_pioMode : (run (.pioMode .a .bitInOut 0) State.reset).map
      (fun t => (t.pio.portA.mode, t.pio.portA.nextControl, t.pio.resetState)) =
    some (.bitInOut, .directionMask, false) := by decide
theorem test_pioMode_refused : refusal (.pioMode .b .byteInOut 0) State.reset = some .portBBidirectional := by decide
theorem test_pioDir : (run (.pioDir .a 0x0F) (withPort .a { bitPort with nextControl := .directionMask })).map
      (fun t => (t.pio.portA.mode, t.pio.portA.inputDirectionMask, t.pio.portA.nextControl)) =
    some (.bitInOut, 0x0F, .command) := by decide
theorem test_pioIcw : (run (.pioIcw .a ⟨true, false, false, true⟩) (withPort .a { bitPort with intEnabled := false })).map
      (fun t => (t.pio.portA.nextControl, t.trace)) = some (.interruptMask, [.interruptEnabled .a]) := by decide
theorem test_pioImask : (run (.pioImask .a 0x50) (withPort .a { bitPort with nextControl := .interruptMask })).map
      (fun t => (t.pio.portA.bitMask, t.pio.portA.vector)) = some (0x50, 0x50) := by decide
theorem test_pioVec : (run (.pioVec .a 0b0110000) (withPort .a outPort)).map (fun t => t.pio.portA.vector) = some 0x60 := by
  decide
theorem test_pioIew : (run (.pioIew .a false 0) (withPort .a bitPort)).map (fun t => (t.pio.portA.intEnabled, t.trace)) =
    some (false, [.interruptDisabled .a]) := by decide

/-- V-PIO-1: a reserved word to the other port clears the shared latch. -/
theorem test_pioRsvd : (run (.pioRsvd .b 0) State.reset).map State.pio = some { Pio.powerOn with resetState := false } := by
  decide
theorem test_pioRsvdB : (run (.pioRsvdB .b 0b1111) State.reset).map State.pio =
    some { Pio.powerOn with resetState := false } := by decide

/-- V-PIO-2 step 8: bit 4 is ignored outside bit mode. -/
theorem test_pioWriteControl : (run (.pioWriteControl .b 0x97) (withPort .a outPort)).map
      (fun t => (t.pio.portB.nextControl, t.pio.portB.intEnabled, t.trace)) =
    some (.command, true, [.interruptEnabled .b]) := by decide

/-- V-PIO-3. -/
theorem test_pioWriteData : (run (.pioWriteData .a 0x5A) (withPort .a { outPort with outputRegister := 0, ready := false })).map
      (fun t => (t.pio.portA, t.trace)) = some (outPort, [.outputAvailable .a 0x5A]) := by decide

/-- V-PIO-6: an output line fires the condition. -/
theorem test_pioWriteData_bit : (run (.pioWriteData .b 0x01) (withPort .b
      { bitPort with inputDirectionMask := 0xF0, bitMask := 0xEE, bitsAndCombined := false })).map
      (fun t => (t.pio.portB.intRequested, t.trace)) = some (true, [.outputChanged .b 0x01]) := by decide
theorem test_pioFetchOutValue : (run (.pioFetchOutValue .a true) (withPort .a outPort)).map
      (fun t => (t.reply, t.pio.portA.ready, t.pio.portA.intRequested)) = some (.byte 0x5A, false, true) := by decide
theorem test_pioFetchOutValue_latched : (run (.pioFetchOutValue .a true) State.reset).map State.reply =
    some (.byte 0xFF) := by decide

/-- V-PIO-5: port A's strobe raises port B's `ready`. -/
theorem test_pioPutInValue : (run (.pioPutInValue .a 0xB2 0xFF true)
      (withPort .a { outPort with mode := .byteInOut, ready := false })).map
      (fun t => (t.pio.portB.ready, t.pio.portA.intRequested, t.pio.portA.inputRegister, t.pio.portA.ready)) =
    some (true, true, 0xB2, false) := by decide

/-- P3 steps 7 and 8: a request on the transition only. -/
theorem test_pioPutInValue_bit : (run (.pioPutInValue .a 0xC1 0xFF false)
      (withPort .a { bitPort with inputRegister := 0xC0, conditionCurrentlyFulfilled := true })).map
      (fun t => (t.pio.portA.inputRegister, t.pio.portA.conditionCurrentlyFulfilled, t.pio.portA.intRequested)) =
    some (0xC1, true, false) := by decide

/-- V-PIO-4 and V-PIO-6. -/
theorem test_pioReadData : (run (.pioReadData .a) (withPort .a { PioPort.powerOn with inputRegister := 0x33, ready := true })).map
      (fun t => (t.reply, t.pio.portA.ready, t.trace)) = some (.byte 0x33, false, [.readyForInput .a]) := by decide
theorem test_pioReadData_bit : (run (.pioReadData .b) (withPort .b
      { bitPort with inputDirectionMask := 0xF0, inputRegister := 0x1F })).map State.reply = some (.byte 0x10) := by decide

/-- The free byte is the next one of the run, whatever it is. -/
theorem test_pioReadControl : (run (.pioReadControl .a) State.reset).map (fun t => (t.reply, t.draws)) =
    some (.byte (Config.freeByte 0), 1) := rfl
theorem test_pioOnClockPulses : (run (.pioOnClockPulses 0xFFFFFFFF) (withPort .a outPort)).map State.pio =
    some (withPort .a outPort).pio := by decide

/-- V-PIO-9: port A before port B. -/
theorem test_pioAccept : (run .pioAccept { State.reset with
      pio := ⟨false, { outPort with intRequested := true }, { outPort with vector := 0x20, intRequested := true }⟩ }).map
      State.reply = some (.byte 0x22) := by decide
theorem test_pioVector : (run .pioVector (withPort .b { bitPort with intRequested := true })).map State.reply =
    some (.byte 0x50) := by decide
theorem test_pioIsRequested : (run .pioIsRequested (withPort .b { bitPort with intRequested := true })).map State.reply =
    some (.bool true) := by decide
theorem test_pioIsAccepted : (run .pioIsAccepted (withPort .b bitPort)).map State.reply = some (.bool false) := by decide
theorem test_pioFinish : (run .pioFinish { State.reset with
      pio := ⟨false, { outPort with intAccepted := true }, { outPort with intAccepted := true }⟩ }).map
      (fun t => (t.pio.portA.intAccepted, t.pio.portB.intAccepted)) = some (false, true) := by decide
theorem test_pioStatusSnapshot : (run .pioStatusSnapshot State.reset).map State.reply = some (.pioReport .powerOn) := by
  decide

/-- V-RST-2. -/
theorem test_pioReset_warm : (run (.pioReset false) (withPort .a { outPort with inputRegister := 0x77 })).map
      (fun t => (t.pio.resetState, t.pio.portA)) =
    some (true, { PioPort.powerOn with vector := 0x22, outputRegister := 0x5A, inputRegister := 0x77 }) := by decide
theorem test_pioReset_powerOn : (run (.pioReset true) (withPort .a outPort)).map State.pio = some .powerOn := by decide

/-! ### SIO -/

/-- V-SIO-2: the pointer byte; V-SIO-4: command 2 and pointer 1 in one byte. -/
theorem test_sioWr0Null : (run (.sioWr0Null .a 0 1) State.reset).map (fun t => t.sio.chA.wr.wr0) = some 0x01 := by decide
theorem test_sioWr0Cmd1None : (run (.sioWr0Cmd1None .a 0b11 0) State.reset).map State.sio =
    some { Sio.powerOn with chA := { SioChannel.powerOn with wr := { WriteRegs.zero with wr0 := 0xC8 } } } := by decide
theorem test_sioWr0ResetExtStatus : (run (.sioWr0ResetExtStatus .a 0 1) (withSio .a { line with extRequested := true })).map
      (fun t => (t.sio.chA.wr.wr0, t.sio.chA.extRequested)) = some (0x11, false) := by decide

/-- V-SIO-3: `wr[2]` survives a channel reset. -/
theorem test_sioWr0ChannelReset : (run (.sioWr0ChannelReset .a 0 0)
      (withSio .a { line with wr := { line.wr with wr2 := 0x55 }, txRequested := true })).map (fun t => t.sio.chA) =
    some { SioChannel.powerOn with wr := { WriteRegs.zero with wr2 := 0x55 } } := by decide
theorem test_sioWr0EnableFirstChar : (run (.sioWr0EnableFirstChar .b 0 0) State.reset).map
      (fun t => (t.sio.chB.rxFirstCharArmed, t.sio.chA.rxFirstCharArmed)) = some (true, false) := by decide
theorem test_sioWr0ResetTxInt : (run (.sioWr0ResetTxInt .a 0 0) (withSio .a { line with txRequested := true, txAccepted := true })).map
      (fun t => (t.sio.chA.txRequested, t.sio.chA.txAccepted)) = some (false, true) := by decide
theorem test_sioWr0ErrorReset : (run (.sioWr0ErrorReset .a 0 0) (withSio .a { line with rxOverrunLatch := true })).map
      (fun t => t.sio.chA.rxOverrunLatch) = some false := by decide

/-- P4 step 12; on channel B the command does nothing. -/
theorem test_sioWr0Reti : (run (.sioWr0Reti .a 0 0) (withSio .a { line with rxAccepted := true })).map
      (fun t => (t.sio.chA.rxAccepted, t.sio.chA.wr.wr0)) = some (false, 0x38) := by decide
theorem test_sioWr0Reti_b : (run (.sioWr0Reti .b 0 0) (withSio .a { line with rxAccepted := true })).map
      (fun t => t.sio.chA.rxAccepted) = some true := by decide

/-- V-SIO-8: selecting mode 1 arms the first character. -/
theorem test_sioWr1 : (run (.sioWr1 .a ⟨0, 1, false, false, false⟩)
      (withSio .a { SioChannel.powerOn with wr := { WriteRegs.zero with wr0 := 0x01 } })).map
      (fun t => (t.sio.chA.wr, t.sio.chA.rxFirstCharArmed)) =
    some ({ WriteRegs.zero with wr1 := 0x08 }, true) := by decide

/-- Channel B with the pointer at `n`. -/
def pointing (n : Byte) : State := withSio .b { SioChannel.powerOn with wr := { WriteRegs.zero with wr0 := n } }

theorem test_sioWr2 : (run (.sioWr2 .b 0xE0) (pointing 2)).map (fun t => t.sio.chB.wr) =
    some { WriteRegs.zero with wr2 := 0xE0 } := by decide
theorem test_sioWr3 : (run (.sioWr3 .b ⟨3, 0, true⟩) (pointing 3)).map (fun t => t.sio.chB.wr) =
    some { WriteRegs.zero with wr3 := 0xC1 } := by decide
theorem test_sioWr4 : (run (.sioWr4 .b ⟨1, 0, 1, false, false⟩) (pointing 4)).map (fun t => t.sio.chB.wr) =
    some { WriteRegs.zero with wr4 := 0x44 } := by decide
theorem test_sioWr5 : (run (.sioWr5 .b ⟨false, 3, false, true, false, false, false⟩) (pointing 5)).map
      (fun t => t.sio.chB.wr) = some { WriteRegs.zero with wr5 := 0x68 } := by decide
theorem test_sioWr6 : (run (.sioWr6 .b 0x16) (pointing 6)).map (fun t => t.sio.chB.wr) =
    some { WriteRegs.zero with wr6 := 0x16 } := by decide
theorem test_sioWr7 : (run (.sioWr7 .b 0x7E) (pointing 7)).map (fun t => t.sio.chB.wr) =
    some { WriteRegs.zero with wr7 := 0x7E } := by decide
theorem test_sioWriteControl : (run (.sioWriteControl .b 0x44) (pointing 4)).map (fun t => t.sio.chB.wr.wr4) =
    some 0x44 := by decide
theorem test_sioSetReg : (run (.sioSetReg .a 4 0x44) State.reset).map (fun t => t.sio.chA.wr) =
    some { WriteRegs.zero with wr4 := 0x44 } := by decide
theorem test_sioSetReg_zero : refusal (.sioSetReg .a 0 0x44) State.reset = some .indexOutOfRange := by decide

/-- V-SIO-1. -/
theorem test_sioReadControl : (run (.sioReadControl .b) State.reset).map State.reply = some (.byte 0x04) := by decide
theorem test_sioRr0 : (run (.sioRr0 .a) (withSio .a { line with cts := some true, extRequested := true })).map State.reply =
    some (.byte 0x26) := by decide
theorem test_sioRr1 : (run (.sioRr1 .b) (pointing 1)).map (fun t => (t.reply, t.sio.chB.wr.wr0)) =
    some (.byte 0x01, 0x00) := by decide
theorem test_sioReadControl_free : (run (.sioReadControl .b) (pointing 2)).map (fun t => (t.reply, t.sio.chB.wr.wr0)) =
    some (.byte (Config.freeByte 0), 0x00) := rfl
theorem test_sioWriteData : (run (.sioWriteData .a 0x55) State.reset).map (fun t => (t.sio.chA.txBuffer, t.sio.chA.txBufferEmpty)) =
    some (0x55, false) := by decide
theorem test_sioReadData : (run (.sioReadData .a) (withSio .a lastBit)).map
      (fun t => (t.reply, t.sio.chA.receiveFifoLen, t.sio.chA.receiveFifo.e0.value)) = some (.byte 0x11, 2, 0x22) := by decide
theorem test_sioAvailable : (run (.sioAvailable .a) (withSio .a lastBit)).map State.reply = some (.count 3) := by decide

/-- V-SIO-5 and S8. -/
theorem test_sioPutToReceiver : (run (.sioPutToReceiver .a 0x41) (withSio .a line)).map
      (fun t => (t.reply, t.sio.chA.rxBitsRemaining, t.sio.chA.rxDivAcc)) = some (.bool true, 9, 0) := by decide
theorem test_sioPutToReceiver_disabled : (run (.sioPutToReceiver .a 0x41) State.reset).map State.reply =
    some (.bool false) := by decide

/-- P4 step 5: the fourth byte replaces the last entry. -/
theorem test_sioClockPulseReceiver : (run (.sioClockPulseReceiver .a 1) (withSio .a lastBit)).map
      (fun t => (t.sio.chA.receiveFifo.e2, t.sio.chA.receiveFifoLen, t.sio.chA.rxOverrunLatch, t.sio.chA.rxRequested)) =
    some (⟨0x44, true⟩, 3, true, true) := by decide

/-- V-SIO-7: five bits of 0xFF, divisor 1. -/
theorem test_sioOnClockPulses_width : (run (.sioOnClockPulses 6) (withSio .a { SioChannel.powerOn with
      wr := { WriteRegs.zero with wr3 := 0x01, wr4 := 0x04 }, rxShiftBuffer := 0xFF, rxBitsRemaining := 6 })).map
      (fun t => t.sio.chA.receiveFifo.e0.value) = some 0x1F := by decide

/-- V-SIO-9: the frame starts on the first pulse; its last pulse emits. -/
theorem test_sioOnClockPulses_start : (run (.sioOnClockPulses 1) (withSio .a { line with txBuffer := 0x55, txBufferEmpty := false })).map
      (fun t => (t.sio.chA.txBitsRemaining, t.sio.chA.txDivAcc)) = some (9, 1) := by decide

/-- V-SIO-10: seven bits of 0xC1. -/
theorem test_sioClockPulseSender : (run (.sioClockPulseSender .b 1) (withSio .b { SioChannel.powerOn with
      wr := { WriteRegs.zero with wr4 := 0x0D, wr5 := 0x28 }, txBuffer := 0xC1, txBufferEmpty := false,
      txBitsRemaining := 1 })).map (fun t => (t.trace, t.sio.chB.txBufferEmpty)) =
    some ([.byteTransmitted .b 0x41], true) := by decide

/-- V-SIO-11: the first sample does not request, a change does. -/
theorem test_sioSetClearToSend : (run (.sioSetClearToSend .a true) (withSio .a { SioChannel.powerOn with
      wr := { WriteRegs.zero with wr1 := 0x01 }, cts := some false })).map
      (fun t => (t.sio.chA.extRequested, t.sio.chA.cts)) = some (true, some true) := by decide
theorem test_sioSetDataCarrierDetect : (run (.sioSetDataCarrierDetect .a true) (withSio .a { SioChannel.powerOn with
      wr := { WriteRegs.zero with wr1 := 0x01 } })).map
      (fun t => (t.sio.chA.extRequested, t.sio.chA.dcd)) = some (false, some true) := by decide

/-- P4 step 8 and V-SIO-9: receive with overrun, and transmit, of channel A with status affecting the vector. -/
def inService (q : SioChannel) : State :=
  { State.reset with sio := ⟨q, { SioChannel.powerOn with wr := { WriteRegs.zero with wr1 := 0x04, wr2 := 0xE0 } }⟩ }

theorem test_sioAccept : (run .sioAccept (inService { line with rxRequested := true, rxOverrunLatch := true })).map State.reply =
    some (.byte 0xEE) := by decide
theorem test_sioVector : (run .sioVector (inService { line with txRequested := true })).map
      (fun t => (t.reply, t.sio.chA.txAccepted, t.sio.chA.txRequested)) = some (.byte 0xE8, true, false) := by decide
theorem test_sioIsRequested : (run .sioIsRequested (inService { line with extRequested := true, extAccepted := true })).map
      State.reply = some (.bool false) := by decide
theorem test_sioIsAccepted : (run .sioIsAccepted (inService { line with extAccepted := true })).map State.reply =
    some (.bool true) := by decide
theorem test_sioFinish : (run .sioFinish (inService { line with rxAccepted := true, extAccepted := true })).map
      (fun t => (t.sio.chA.rxAccepted, t.sio.chA.extAccepted)) = some (false, true) := by decide
theorem test_sioStatusSnapshot : (run .sioStatusSnapshot State.reset).map State.reply =
    some (.sioReport .powerOn 0x04 0x01 0x04 0x01) := by decide

/-- V-RST-3. -/
theorem test_sioReset_warm : (run (.sioReset false) (withSio .b { line with
      wr := { line.wr with wr2 := 0x3C }, cts := some true, receiveFifoLen := 1 })).map (fun t => t.sio.chB) =
    some { SioChannel.powerOn with wr := { WriteRegs.zero with wr2 := 0x3C }, cts := some true } := by decide
theorem test_sioReset_powerOn : (run (.sioReset true) (withSio .b lastBit)).map State.sio = some .powerOn := by decide

/-! ### The chain (program P5) -/

/-- PIO port A in service, CTC channel 2 and SIO channel A receive pending. -/
def nested : State :=
  { State.reset with
    ctc := { Ctc.powerOn with vector := 0x40, ch2 := { lastPulse with interruptRequested := true } }
    pio := ⟨false, { outPort with vector := 0x50, intAccepted := true }, .powerOn⟩
    sio := (inService { line with rxRequested := true }).sio }

theorem test_chainRequest : (run .chainRequest nested).map State.reply = some (.device (some .ctc)) := by decide
theorem test_chainRequest_blocked : (run .chainRequest { nested with ctc := .powerOn }).map State.reply =
    some (.device none) := by decide
theorem test_chainAccept : (run .chainAccept nested).map (fun t => (t.reply, t.ctc.ch2.interruptAccepted)) =
    some (.byte 0x44, true) := by decide
theorem test_chainAccept_refused : refusal .chainAccept State.reset = some .acceptWithoutRequest := by decide
theorem test_chainFinish : (run .chainFinish nested).map (fun t => (t.pio.portA.intAccepted, t.reply)) =
    some (false, .unit) := by decide

/-! ## Witnesses: states and operands that meet the hypotheses of each statement, one for each of its clauses

Each theorem is named for the statement and, where it has several clauses, for the clause. -/

/-- The frame of `ctc.accept()`. -/
def acceptFrame : List Byte := [0, 26, 0, 0, 0, 0, 0, 0]

theorem witness_StepRunsDecodedInstruction_ok :
    (State.reset.present acceptFrame).input = acceptFrame :: [] ∧ decode acceptFrame = .ok .ctcAccept := by decide
theorem witness_StepRunsDecodedInstruction_error :
    (State.reset.present [0x40]).input = [0x40] :: [] ∧ decode [0x40] = .error .badLength := by decide
theorem witness_StepRunsDecodedInstruction_empty : State.reset.input = [] := rfl

theorem witness_DecodeOfEncode : (Instr.sioSetReg .b 7 0xFF).wellFormed = true ∧
    (Instr.ctcExternalPulses .c3 4294967295).wellFormed = true := by decide
theorem witness_DecodedBytesAreTheEncoding : decode acceptFrame = .ok .ctcAccept := by decide

/-- A state with the invariants in which a pulse is a zero-crossing. -/
theorem witness_StepKeepsInvariants :
    ((withCtc .c0 lastPulse).present [0, 20, 0, 0, 1, 0, 0, 0]).Inv ∧
      ∃ t, step ((withCtc .c0 lastPulse).present [0, 20, 0, 0, 1, 0, 0, 0]) = .next t :=
  ⟨⟨by decide, by decide, by decide⟩, _, rfl⟩

theorem witness_DevicesShareNoState : deviceOf (.ctcOnClockPulses 1) = some .ctc ∧ deviceOf (.pioRsvd .b 0) = some .pio ∧
    deviceOf (.sioWr0Reti .a 0 0) = some .sio ∧ (run (.ctcOnClockPulses 1) (withCtc .c0 lastPulse)).isSome = true ∧
    (run (.pioRsvd .b 0) State.reset).isSome = true ∧ (run (.sioWr0Reti .a 0 0) State.reset).isSome = true := by decide
theorem witness_ParametersAndWiringAreKept : (run (.ctcExternalPulses .c0 1) cascaded).isSome = true ∧
    ∀ a b, (Instr.ctcExternalPulses .c0 1) ≠ .ctcConnectCascade a b :=
  ⟨by decide, fun _ _ h => nomatch h⟩
theorem witness_RequestsRiseOnlyWhenEnabled : ∃ t, exec (.ctcOnClockPulses 1) (withCtc .c0 lastPulse) = .next t ∧
    (withCtc .c0 lastPulse).requested (.ctc .c0) = false ∧ t.requested (.ctc .c0) = true :=
  ⟨_, rfl, by decide, by decide⟩

/-- Both ports pending, port A in a mode that offers a byte. -/
def bothPending : State :=
  { State.reset with
    pio := ⟨false, { outPort with intRequested := true }, { outPort with vector := 0x20, intRequested := true }⟩ }

theorem witness_ServiceBeginsOnlyByAcceptance_accepted : ∃ t, exec .pioAccept bothPending = .next t ∧
    bothPending.accepted (.pio .a) = false ∧ t.accepted (.pio .a) = true := ⟨_, rfl, by decide, by decide⟩
theorem witness_ServiceBeginsOnlyByAcceptance_dropped : ∃ t, exec (.pioReset false) bothPending = .next t ∧
    bothPending.requested (.pio .b) = true ∧ t.requested (.pio .b) = false := ⟨_, rfl, by decide, by decide⟩
theorem witness_ResetLatchGatesThePio : ∃ t, exec (.pioPutInValue .b 0x12 0xFF true) State.reset = .next t ∧
    deviceOf (.pioPutInValue .b 0x12 0xFF true) = some .pio ∧ State.reset.pio.resetState = true ∧
    t.pio.resetState = true := ⟨_, rfl, rfl, rfl, rfl⟩

theorem witness_FormatRowsAreControlWrites_ctc : CtcWrites (.ctcVec .c3 .data 0b11111 0b11) .c3 0xFE ∧
    CtcWrites (.ctcCw .c0 .control ⟨true, false, true, false, false, true, true⟩) .c0 0xA7 :=
  ⟨.vec _ _ _ _ _ (by decide) (by decide) (by decide),
    .cw _ _ _ _ (by decide) (by decide) (by decide) (by decide) (by decide) (by decide) (by decide) (by decide)⟩
theorem witness_FormatRowsAreControlWrites_pio : PioWrites (.pioIew .b true 0b111) .b 0xF3 ∧
    ¬ BidirectionalB State.reset .b 0xF3 ∧ PioWrites (.pioMode .a .byteInOut 0) .a 0x8F ∧
    ¬ BidirectionalB State.reset .a 0x8F :=
  ⟨.iew _ _ _ _ (by decide) (by decide) (by decide), fun h => absurd h.2.2.1 (by decide),
    .modeInOut _ _ _ (by decide) (by decide) (by decide), fun h => nomatch h.1⟩
theorem witness_FormatRowsAreControlWrites_sio : SioWrites (.sioWr0Reti .b 0b11 0b111) .b 0xFF ∧
    SioWrites (.sioWr3 .a ⟨3, 0, true⟩) .a 0xC1 :=
  ⟨.reti _ _ _ _ ⟨by decide, by decide, by decide⟩, .wr3 _ _ _ (by decide) (by decide) (by decide)⟩

/-! ### CTC -/

theorem witness_TimeConstantIsPending :
    ((withCtc .c0 { CtcChannel.powerOn with expectTimeConstant := true }).ctc.ch .c0).expectTimeConstant = true := rfl
theorem witness_CtcVectorWordSetsVector : (State.reset.ctc.ch .c3).expectTimeConstant = false ∧
    (0xFE : Byte).getLsbD 0 = false := by decide
theorem witness_CtcControlWordSetsFields : (State.reset.ctc.ch .c3).expectTimeConstant = false ∧
    (0x03 : Byte).getLsbD 0 = true := by decide
theorem witness_CtcReadReturnsCounter : Instr.ctcReadControl .c0 = .ctcReadData .c0 ∨
    Instr.ctcReadControl .c0 = .ctcReadControl .c0 := .inr rfl
theorem witness_PulseBatchesMerge : (4294967295 : BitVec 32).toNat + (0 : BitVec 32).toNat < 2 ^ 32 := by decide

/-- The four channels: a pending load; stopped; a prescaler step; a zero-crossing. -/
def fourChannels : State :=
  { State.reset with
    ctc :=
      { vector := 0
        ch0 := { CtcChannel.powerOn with pendingLoadValue := some 256 }
        ch1 := CtcChannel.powerOn
        ch2 := { lastPulse with prescaler := 254 }
        ch3 := lastPulse } }

theorem witness_ClockPulseAdvancesChannels_unwired : ∀ i, (fourChannels.ctc.ch i).cascadeTo = none := by
  intro i; cases i <;> rfl
theorem witness_ClockPulseAdvancesChannels_commit : (fourChannels.ctc.ch .c0).pendingLoadValue = some 256 := rfl
theorem witness_ClockPulseAdvancesChannels_idle : (fourChannels.ctc.ch .c1).pendingLoadValue = none ∧
    (fourChannels.ctc.ch .c1).running = false := by decide
theorem witness_ClockPulseAdvancesChannels_prescaler : (fourChannels.ctc.ch .c2).pendingLoadValue = none ∧
    (fourChannels.ctc.ch .c2).running = true ∧ (fourChannels.ctc.ch .c2).timerMode = true ∧
    (fourChannels.ctc.ch .c2).prescaler + 1 < (fourChannels.ctc.ch .c2).period := by decide
theorem witness_ClockPulseAdvancesChannels_count :
    ((withCtc .c0 { lastPulse with counter := 2 }).ctc.ch .c0).period ≤
        ((withCtc .c0 { lastPulse with counter := 2 }).ctc.ch .c0).prescaler + 1 ∧
      1 < ((withCtc .c0 { lastPulse with counter := 2 }).ctc.ch .c0).counter ∧
      ((withCtc .c0 { lastPulse with counter := 2 }).ctc.ch .c0).running = true := by decide
theorem witness_ClockPulseAdvancesChannels_crossing : (fourChannels.ctc.ch .c3).Crossing ∧
    (fourChannels.ctc.ch .c3).counterInit = some 10 :=
  ⟨⟨rfl, rfl, rfl, by decide, by decide⟩, rfl⟩

/-- Just reloaded, with the largest constant and the largest prescaler. -/
def reloadedTimer : CtcChannel := { lastPulse with counterInit := some 256, counter := 256, prescaler := 0 }

theorem witness_TimerPeriodIsConstantTimesPrescaler :
    ((withCtc .c0 reloadedTimer).ctc.ch .c0) = reloadedTimer ∧ reloadedTimer.counterInit = some 256 ∧
      reloadedTimer.counter = 256 ∧ reloadedTimer.prescaler = 0 ∧ reloadedTimer.pendingLoadValue = none ∧
      reloadedTimer.running = true ∧ reloadedTimer.timerMode = true ∧ reloadedTimer.cascadeTo = none ∧
      (256 * reloadedTimer.period - 1 < 256 * reloadedTimer.period) ∧
      ∀ j, j ≠ .c0 → ((withCtc .c0 reloadedTimer).ctc.ch j).pendingLoadValue = none ∧
        (((withCtc .c0 reloadedTimer).ctc.ch j).running = false ∨
          ((withCtc .c0 reloadedTimer).ctc.ch j).timerMode = false) :=
  ⟨rfl, rfl, rfl, rfl, rfl, rfl, rfl, rfl, by decide, fun j h => by cases j <;> first | exact absurd rfl h | exact ⟨rfl, .inl rfl⟩⟩

theorem witness_ExternalEdgeTriggersChannel_polarity :
    false ≠ ((withCtc .c1 counting).ctc.ch .c1).triggerEdgeHigh := by decide
theorem witness_ExternalEdgeTriggersChannel_unloaded : (State.reset.ctc.ch .c0).counterInit = none := rfl
theorem witness_ExternalEdgeTriggersChannel_timer : false = ((withCtc .c0 lastPulse).ctc.ch .c0).triggerEdgeHigh ∧
    ((withCtc .c0 lastPulse).ctc.ch .c0).counterInit = some 10 ∧ ((withCtc .c0 lastPulse).ctc.ch .c0).timerMode = true := by
  decide
theorem witness_ExternalEdgeTriggersChannel_count : true = ((withCtc .c1 counting).ctc.ch .c1).triggerEdgeHigh ∧
    ((withCtc .c1 counting).ctc.ch .c1).counterInit = some 3 ∧ ((withCtc .c1 counting).ctc.ch .c1).timerMode = false ∧
    1 < ((withCtc .c1 counting).ctc.ch .c1).counter := by decide
theorem witness_ExternalEdgeTriggersChannel_crossing :
    ((withCtc .c1 { counting with counter := 1 }).ctc.ch .c1).timerMode = false ∧
      ((withCtc .c1 { counting with counter := 1 }).ctc.ch .c1).counter ≤ 1 ∧
      ((withCtc .c1 { counting with counter := 1 }).ctc.ch .c1).counterInit = some 3 ∧
      ((withCtc .c1 { counting with counter := 1 }).ctc.ch .c1).cascadeTo = none := by decide
theorem witness_CascadePassesOnePulse_edge : cascaded.ctc.WiredOk ∧ (cascaded.ctc.ch .c0).counterInit = some 3 ∧
    (cascaded.ctc.ch .c0).timerMode = false ∧ (cascaded.ctc.ch .c0).counter ≤ 1 ∧
    (cascaded.ctc.ch .c0).cascadeTo = some .c1 := ⟨by decide, rfl, rfl, by decide, rfl⟩

/-- The part of the clock-pulse clauses' hypotheses that they share, for a timer that feeds channel `j`. -/
def PulseOf (s : State) (i j : CtcIx) : Prop :=
  s.ctc.WiredOk ∧ (s.ctc.ch i).Crossing ∧ (s.ctc.ch i).counterInit = some 2 ∧ (s.ctc.ch i).cascadeTo = some j ∧
    ∀ k, k ≠ i → k ≠ j → (s.ctc.ch k).IgnoresPulses

/-- The channels that are not linked are as after reset and ignore clock pulses. -/
theorem linked_ignores (i j : CtcIx) (p q : CtcChannel) :
    ∀ k, k ≠ i → k ≠ j → ((linked i j p q).ctc.ch k).IgnoresPulses := by
  intro k hi hj
  cases i <;> cases j <;> cases k <;> first | exact absurd rfl hi | exact absurd rfl hj | exact ⟨rfl, .inr ⟨rfl, rfl⟩⟩

/-- A timer that was loaded and waits for its trigger (V-CTC-6). -/
def waiting : CtcChannel := { CtcChannel.powerOn with counterInit := some 2, counter := 2, waitForTrigger := true }

/-- A counter with a load pending. -/
def pendingLoad : CtcChannel := { counting with pendingLoadValue := some 256 }

theorem witness_CascadePassesOnePulse_ignoring : PulseOf (linked .c0 .c1 feeding counting) .c0 .c1 ∧
    ((linked .c0 .c1 feeding counting).ctc.ch .c1).IgnoresPulses :=
  ⟨⟨by decide, ⟨rfl, rfl, rfl, by decide, by decide⟩, rfl, rfl, linked_ignores _ _ _ _⟩, rfl, .inl rfl⟩
theorem witness_CascadePassesOnePulse_lower : PulseOf (linked .c3 .c0 feeding pendingLoad) .c3 .c0 ∧
    ((linked .c3 .c0 feeding pendingLoad).ctc.ch .c0).pendingLoadValue = some 256 ∧ CtcIx.c0.toNat < CtcIx.c3.toNat :=
  ⟨⟨by decide, ⟨rfl, rfl, rfl, by decide, by decide⟩, rfl, rfl, linked_ignores _ _ _ _⟩, rfl, by decide⟩
theorem witness_CascadePassesOnePulse_higher : PulseOf (linked .c0 .c3 feeding pendingLoad) .c0 .c3 ∧
    ((linked .c0 .c3 feeding pendingLoad).ctc.ch .c3).pendingLoadValue = some 256 ∧ CtcIx.c0.toNat < CtcIx.c3.toNat :=
  ⟨⟨by decide, ⟨rfl, rfl, rfl, by decide, by decide⟩, rfl, rfl, linked_ignores _ _ _ _⟩, rfl, by decide⟩
theorem witness_CascadePassesOnePulse_waiting : PulseOf (linked .c1 .c2 feeding waiting) .c1 .c2 ∧
    ((linked .c1 .c2 feeding waiting).ctc.ch .c2).pendingLoadValue = none ∧
    ((linked .c1 .c2 feeding waiting).ctc.ch .c2).timerMode = true ∧
    ((linked .c1 .c2 feeding waiting).ctc.ch .c2).running = false ∧
    ((linked .c1 .c2 feeding waiting).ctc.ch .c2).counterInit ≠ none :=
  ⟨⟨by decide, ⟨rfl, rfl, rfl, by decide, by decide⟩, rfl, rfl, linked_ignores _ _ _ _⟩, rfl, rfl, rfl, by decide⟩

/-- A running timer at the last step of its period but one. -/
def stepping : CtcChannel := { feeding with prescaler := 14 }

theorem witness_CascadePassesOnePulse_running : PulseOf (linked .c1 .c2 feeding stepping) .c1 .c2 ∧
    ((linked .c1 .c2 feeding stepping).ctc.ch .c2).running = true ∧
    ((linked .c1 .c2 feeding stepping).ctc.ch .c2).prescaler + 1 <
      ((linked .c1 .c2 feeding stepping).ctc.ch .c2).period :=
  ⟨⟨by decide, ⟨rfl, rfl, rfl, by decide, by decide⟩, rfl, rfl, linked_ignores _ _ _ _⟩, rfl, by decide⟩

theorem witness_ConnectCascadeLinksOrRefuses_link : State.reset.ctcOperated = false ∧ CtcIx.c0 ≠ .c3 ∧
    (State.reset.ctc.ch .c0).cascadeTo = none ∧ (State.reset.ctc.ch .c3).cascadeFrom = none ∧
    ¬ State.reset.ctc.Reaches .c3 .c0 :=
  ⟨rfl, by decide, rfl, rfl, fun h => by cases h with | link _ _ _ hk _ => exact nomatch hk⟩
theorem witness_ConnectCascadeLinksOrRefuses_cycle : cascaded.ctc.Reaches .c0 .c1 := .link _ .c1 _ rfl (.here _)
theorem witness_ConnectCascadeLinksOrRefuses_taken : (cascaded.ctc.ch .c0).cascadeTo ≠ none ∧
    (cascaded.ctc.ch .c1).cascadeFrom ≠ none ∧ State.reset.markCtc.ctcOperated = true := by decide

/-! ### PIO -/

theorem witness_PioVectorWordIsStored : (State.reset.pio.port .b).nextControl = .command ∧
    (0x00 : Byte).getLsbD 0 = false := by decide
theorem witness_PioMaskBytesAreStored_direction :
    ((withPort .a { bitPort with nextControl := .directionMask }).pio.port .a).nextControl = .directionMask := rfl
theorem witness_PioMaskBytesAreStored_interrupt :
    ((withPort .a { bitPort with nextControl := .interruptMask }).pio.port .a).nextControl = .interruptMask := rfl
theorem witness_PioModeWordSetsMode_a : (0xCF : Byte).extractLsb' 0 4 = 0xF ∧ ModeCode 0xCF .bitInOut ∧
    State.reset.pio.portA.nextControl = .command := ⟨by decide, by unfold ModeCode; decide, rfl⟩
theorem witness_PioModeWordSetsMode_b : ModeCode 0x0F .byteOut ∧ State.reset.pio.portB.nextControl = .command ∧
    PioMode.byteOut ≠ .byteInOut := ⟨by unfold ModeCode; decide, rfl, by decide⟩
theorem witness_PioModeWordSetsMode_refused : (0x8F : Byte).extractLsb' 0 4 = 0xF ∧ ModeCode 0x8F .byteInOut ∧
    State.reset.pio.portB.nextControl = .command := ⟨by decide, by unfold ModeCode; decide, rfl⟩
theorem witness_PioInterruptWordsSetEnable : ((withPort .a bitPort).pio.port .a).nextControl = .command ∧
    (0x97 : Byte).extractLsb' 0 4 = 0x7 ∧ (0x83 : Byte).extractLsb' 0 4 = 0x3 ∧
    (0xFB : Byte).extractLsb' 0 4 ∈ [(0x1 : BitVec 4), 0x5, 0x9, 0xB, 0xD] := by decide
/-- Port A in `ByteInOut`, port B in `ByteIn`. -/
def twoWay : State :=
  { State.reset with pio := ⟨false, { outPort with mode := .byteInOut }, { PioPort.powerOn with ready := true }⟩ }

theorem witness_PioDataWriteStoresAndOffers_stored : State.reset.pio.resetState = true ∨
    (State.reset.pio.port .a).mode = .byteIn := .inl rfl
theorem witness_PioDataWriteStoresAndOffers_offered : (withPort .a outPort).pio.resetState = false ∧
    ((withPort .a outPort).pio.port .a).mode = .byteOut := by decide
theorem witness_PioDataWriteStoresAndOffers_besideTwoWay :
    ({ twoWay with pio := twoWay.pio.setPort .b outPort } : State).pio.resetState = false ∧
      (({ twoWay with pio := twoWay.pio.setPort .b outPort } : State).pio.port .b).mode = .byteOut ∧
      ({ twoWay with pio := twoWay.pio.setPort .b outPort } : State).pio.portA.mode = .byteInOut := by decide
theorem witness_PioDataWriteStoresAndOffers_bit : (withPort .b bitPort).pio.resetState = false ∧
    ((withPort .b bitPort).pio.port .b).mode = .bitInOut := by decide

theorem witness_PioDataReadReturnsAndAcknowledges_out : ((withPort .a outPort).pio.port .a).mode = .byteOut := rfl
theorem witness_PioDataReadReturnsAndAcknowledges_held : (twoWay.pio.port .b).mode = .byteIn ∧
    twoWay.pio.portA.mode = .byteInOut ∧ (State.reset.pio.port .a).mode = .byteIn ∧ State.reset.pio.resetState = true := by
  decide
theorem witness_PioDataReadReturnsAndAcknowledges_in : ((withPort .b .powerOn).pio.port .b).mode = .byteIn ∧
    (withPort .b .powerOn).pio.resetState = false ∧
    ¬ (Side.b = .b ∧ (withPort .b .powerOn).pio.portA.mode = .byteInOut) := by decide
theorem witness_PioDataReadReturnsAndAcknowledges_both : (twoWay.pio.port .a).mode = .byteInOut ∧
    twoWay.pio.resetState = false ∧ (({ twoWay with pio := { twoWay.pio with resetState := true } } : State).pio.port .a).mode =
      .byteInOut := by decide
theorem witness_PioDataReadReturnsAndAcknowledges_bit : ((withPort .b bitPort).pio.port .b).mode = .bitInOut := rfl

/-- The byte an external put leaves, for the boundary masks 0x00 and 0xFF. -/
theorem witness_PioPutStoresAndSignals_stored :
    (∀ k, (0x12 : Byte).getLsbD k =
      if (0xFF : Byte).getLsbD k then (0x12 : Byte).getLsbD k else (State.reset.pio.port .a).inputRegister.getLsbD k) ∧
    ∀ k, (0x00 : Byte).getLsbD k =
      if (0x00 : Byte).getLsbD k then (0x12 : Byte).getLsbD k else (State.reset.pio.port .a).inputRegister.getLsbD k :=
  ⟨fun k => by
      by_cases hk : k < 8
      · interval_cases k <;> decide
      · rw [BitVec.getLsbD_of_ge _ _ (by omega), BitVec.getLsbD_of_ge _ _ (by omega), if_neg (by decide),
          BitVec.getLsbD_of_ge _ _ (by omega)],
    fun k => by rw [show (0x00 : Byte) = 0#8 from rfl, BitVec.getLsbD_zero, if_neg (by decide)]; exact (BitVec.getLsbD_zero).symm⟩
theorem witness_PioPutStoresAndSignals_handshake : (withPort .b .powerOn).pio.resetState = false ∧
    ((withPort .b .powerOn).pio.port .b).mode = .byteIn ∧ (withPort .b .powerOn).pio.portA.mode ≠ .byteInOut := by decide
theorem witness_PioPutStoresAndSignals_both : twoWay.pio.resetState = false ∧ (twoWay.pio.port .a).mode = .byteInOut ∧
    (twoWay.pio.port .b).mode = .byteIn := by decide
theorem witness_PioPutStoresAndSignals_bit : (withPort .a bitPort).pio.resetState = false ∧
    ((withPort .a bitPort).pio.port .a).mode = .bitInOut := by decide
theorem witness_PioFetchReturnsAndAcknowledges_latched : State.reset.pio.resetState = true := rfl
theorem witness_PioFetchReturnsAndAcknowledges_plain : (withPort .a bitPort).pio.resetState = false ∧
    ((withPort .a bitPort).pio.port .a).mode = .bitInOut ∧ (twoWay.pio.port .a).mode = .byteInOut := by decide
theorem witness_PioFetchReturnsAndAcknowledges_strobe : (withPort .b outPort).pio.resetState = false ∧
    ((withPort .b outPort).pio.port .b).mode = .byteOut ∧
    ¬ (Side.b = .b ∧ (withPort .b outPort).pio.portA.mode = .byteInOut) := by decide

/-! ### SIO -/

theorem witness_SioRegisterByteIsStored : ((pointing 7).sio.ch .b).wr.wr0.extractLsb' 0 3 ≠ 0 ∧
    ((pointing 1).sio.ch .b).wr.wr0.extractLsb' 0 3 ≠ 0 := by decide
theorem witness_SioCommandsActOnChannel : ((pointing 0xF8).sio.ch .b).wr.wr0.extractLsb' 0 3 = 0 ∧
    (0x30 : Byte).extractLsb' 3 3 ∈ [(0 : BitVec 3), 1, 2, 4, 5, 6] := by decide
theorem witness_SioChannelResetAndSoftwareReti : (State.reset.sio.ch .a).wr.wr0.extractLsb' 0 3 = 0 ∧
    (State.reset.sio.ch .b).wr.wr0.extractLsb' 0 3 = 0 ∧ (0x18 : Byte).extractLsb' 3 3 = 3 ∧
    (0x38 : Byte).extractLsb' 3 3 = 7 := by decide
theorem witness_SetRegIsTwoControlWrites_pointing : ((pointing 2).sio.ch .b).wr.wr0.extractLsb' 0 3 ≠ 0 ∧
    (7 : BitVec 3) ≠ 0 := by decide
theorem witness_SetRegIsTwoControlWrites : (7 : BitVec 3) ≠ 0 ∧ (State.reset.sio.ch .a).wr.wr0.extractLsb' 0 3 = 0 ∧
    (1 : BitVec 3) ≠ 0 ∧ (1 : BitVec 3) ≠ 7 := by decide
theorem witness_SioControlReadReturnsStatus : (State.reset.sio.ch .b).wr.wr0.extractLsb' 0 3 = 0 ∧
    ((pointing 1).sio.ch .b).wr.wr0.extractLsb' 0 3 = 1 ∧ ((pointing 2).sio.ch .b).wr.wr0.extractLsb' 0 3 ≠ 0 ∧
    ((pointing 2).sio.ch .b).wr.wr0.extractLsb' 0 3 ≠ 1 := by decide
theorem witness_UnspecifiedReadsReturnAFreeByte : (State.reset.sio.ch .a).receiveFifoLen = 0 := rfl
theorem witness_SioDataMovesThroughBuffers : 0 < ((withSio .a lastBit).sio.ch .a).receiveFifoLen := by decide
theorem witness_AvailableReturnsFifoLength : (withSio .a lastBit).Inv := ⟨by decide, by decide, by decide⟩

/-- Channel A ready to receive and to transmit, with room for one more byte, a byte to send, and `wr[4]` as given. -/
def atWork (wr4 : Byte) : SioChannel :=
  { line with
    wr := { line.wr with wr4 := wr4 }
    receiveFifoLen := 2
    txBuffer := 0x55
    txBufferEmpty := false }

theorem atWork_ch (b : Byte) : (withSio .a (atWork b)).sio.ch .a = atWork b := rfl

theorem witness_PutToReceiverStartsFrame_taken : RxUsable (atWork 0x44) ∧ (atWork 0x44).rxBitsRemaining = 0 :=
  ⟨⟨by decide, by decide⟩, rfl⟩
theorem witness_PutToReceiverStartsFrame_lost : ¬ RxUsable (State.reset.sio.ch .a) ∧ 0 < lastBit.rxBitsRemaining :=
  ⟨fun h => absurd h.2 (by decide), by decide⟩

/-- The low eight, seven and five bits of a byte. -/
theorem witness_lowBits : LowBits 8 0x55 0x55 ∧ LowBits 7 0xC1 0x41 ∧ LowBits 5 0xFF 0x1F := by
  refine ⟨fun k => ?_, fun k => ?_, fun k => ?_⟩ <;>
  · by_cases hk : k < 8
    · interval_cases k <;> decide
    · simp only [BitVec.getLsbD_of_ge _ _ (show 8 ≤ k by omega), Bool.and_false]

theorem witness_ReceivePulseShiftsOrCompletes : (atWork 0x44).receiveFifoLen ≤ 3 ∧ ClockDivisor (atWork 0x44) 16 ∧
    RxWidth (atWork 0x44) 8 ∧ LowBits 8 ({ atWork 0x44 with rxShiftBuffer := 0x55 } : SioChannel).rxShiftBuffer 0x55 :=
  ⟨by decide, by unfold ClockDivisor; decide, by unfold RxWidth CharacterWidth; decide, witness_lowBits.1⟩
theorem witness_ReceivePulseShiftsOrCompletes_idle : (atWork 0x44).rxBitsRemaining = 0 := rfl
theorem witness_ReceivePulseShiftsOrCompletes_divider : 0 < ({ lastBit with rxDivAcc := 14 } : SioChannel).rxBitsRemaining ∧
    ({ lastBit with rxDivAcc := 14 } : SioChannel).rxDivAcc + 1 < 16 ∧ ClockDivisor lastBit 16 :=
  ⟨by decide, by decide, by unfold ClockDivisor; decide⟩
theorem witness_ReceivePulseShiftsOrCompletes_bit : 1 < ({ lastBit with rxBitsRemaining := 2 } : SioChannel).rxBitsRemaining ∧
    16 ≤ ({ lastBit with rxBitsRemaining := 2 } : SioChannel).rxDivAcc + 1 := by decide
theorem witness_ReceivePulseShiftsOrCompletes_complete : lastBit.rxBitsRemaining = 1 ∧ 16 ≤ lastBit.rxDivAcc + 1 ∧
    lastBit.receiveFifoLen ≤ 3 := by decide

theorem witness_TransmitPulseShiftsOrCompletes_ignored : (State.reset.sio.ch .a).txBufferEmpty = true ∧
    ¬ TxUsable (State.reset.sio.ch .b) := ⟨rfl, fun h => absurd h.2 (by decide)⟩
theorem witness_TransmitPulseShiftsOrCompletes_sending : ClockDivisor (atWork 0x44) 16 ∧ TxWidth (atWork 0x44) 8 ∧
    FrameClocks (atWork 0x44) 8 9 ∧ LowBits 8 (atWork 0x44).txBuffer 0x55 ∧ (atWork 0x44).txBufferEmpty = false ∧
    TxUsable (atWork 0x44) ∧ (atWork 0x44).txBitsRemaining = 0 ∧ 0 + 1 < 16 :=
  ⟨by unfold ClockDivisor; decide, by unfold TxWidth CharacterWidth; decide,
    ⟨1, by unfold StopClocks; decide, by decide⟩, witness_lowBits.1, rfl, ⟨by decide, by decide⟩, rfl, by decide⟩
theorem witness_TransmitPulseShiftsOrCompletes_bits : ClockDivisor (atWork 0x04) 1 ∧ TxUsable (atWork 0x04) ∧
    FrameClocks (atWork 0x04) 8 9 ∧ 1 ≤ 0 + 1 ∧ 1 < 9 ∧
    ({ atWork 0x04 with txBitsRemaining := 1 } : SioChannel).txBitsRemaining = 1 :=
  ⟨by unfold ClockDivisor; decide, ⟨by decide, by decide⟩, ⟨1, by unfold StopClocks; decide, by decide⟩, by decide,
    by decide, rfl⟩

theorem witness_ReceivedByteArrivesAfterItsFrame :
    RxUsable ((withSio .a (atWork 0x44)).sio.ch .a) ∧ ((withSio .a (atWork 0x44)).sio.ch .a).rxBitsRemaining = 0 ∧
      ((withSio .a (atWork 0x44)).sio.ch .a).receiveFifoLen < 3 ∧ ClockDivisor ((withSio .a (atWork 0x44)).sio.ch .a) 16 ∧
      RxWidth ((withSio .a (atWork 0x44)).sio.ch .a) 8 ∧ FrameClocks ((withSio .a (atWork 0x44)).sio.ch .a) 8 9 ∧
      LowBits 8 0x55 0x55 ∧ ∃ t, exec (.sioPutToReceiver .a 0x55) (withSio .a (atWork 0x44)) = .next t :=
  ⟨⟨by decide, by decide⟩, rfl, by decide, by unfold ClockDivisor; decide, by unfold RxWidth CharacterWidth; decide,
    ⟨1, by unfold StopClocks; decide, by decide⟩, witness_lowBits.1, _, rfl⟩
theorem witness_WrittenByteLeavesAfterItsFrame :
    TxUsable ((withSio .a (atWork 0x44)).sio.ch .a) ∧ ((withSio .a (atWork 0x44)).sio.ch .a).txBitsRemaining = 0 ∧
      ClockDivisor ((withSio .a (atWork 0x44)).sio.ch .a) 16 ∧ TxWidth ((withSio .a (atWork 0x44)).sio.ch .a) 8 ∧
      FrameClocks ((withSio .a (atWork 0x44)).sio.ch .a) 8 9 ∧ LowBits 8 0x55 0x55 ∧
      ∃ t, exec (.sioWriteData .a 0x55) (withSio .a (atWork 0x44)) = .next t :=
  ⟨⟨by decide, by decide⟩, rfl, by unfold ClockDivisor; decide, by unfold TxWidth CharacterWidth; decide,
    ⟨1, by unfold StopClocks; decide, by decide⟩, witness_lowBits.1, _, rfl⟩

/-! ### Sources and the chain -/

theorem witness_AcceptTakesFirstPendingSource_taken : (Instr.pioVector, Device.pio) ∈
      [(Instr.ctcAccept, Device.ctc), (.ctcVector, .ctc), (.pioAccept, .pio), (.pioVector, .pio), (.sioAccept, .sio),
        (.sioVector, .sio)] ∧
    sources .pio = [] ++ .pio .a :: [.pio .b] ∧ bothPending.requested (.pio .a) = true ∧
    bothPending.accepted (.pio .a) = false := by decide
theorem witness_AcceptTakesFirstPendingSource_last :
    sources .sio = [.sio .a .rx, .sio .a .tx, .sio .a .ext, .sio .b .rx, .sio .b .tx] ++ .sio .b .ext :: [] ∧
      (∀ y ∈ [Source.sio .a .rx, .sio .a .tx, .sio .a .ext, .sio .b .rx, .sio .b .tx],
        (withSio .b { line with extRequested := true }).requested y = false ∨
          (withSio .b { line with extRequested := true }).accepted y = true) ∧
      (withSio .b { line with extRequested := true }).requested (.sio .b .ext) = true ∧
      (withSio .b { line with extRequested := true }).accepted (.sio .b .ext) = false := by decide
theorem witness_AcceptTakesFirstPendingSource_none :
    ∀ x ∈ sources .ctc, State.reset.requested x = false ∨ State.reset.accepted x = true := by decide
theorem witness_AcceptanceRepliesWithVector : (∃ t, exec .chainAccept nested = .next t) ∧ State.reset.Inv :=
  ⟨⟨_, rfl⟩, by decide, by decide, by decide⟩

/-- Channel 3 of the CTC and both ports of the PIO in service. -/
def served : State :=
  { bothPending with
    ctc := (withCtc .c3 { lastPulse with interruptAccepted := true }).ctc
    pio := ⟨false, { outPort with intAccepted := true }, { outPort with intAccepted := true }⟩ }

theorem witness_CtcFinishReleasesFirstAccepted_release : (served.ctc.ch .c3).interruptAccepted = true ∧
    ∀ j, j.toNat < CtcIx.c3.toNat → (served.ctc.ch j).interruptAccepted = false :=
  ⟨rfl, fun j h => by cases j <;> first | rfl | exact absurd h (by decide)⟩
theorem witness_CtcFinishReleasesFirstAccepted_none : ∀ i, (State.reset.ctc.ch i).interruptAccepted = false := by
  intro i; cases i <;> rfl
theorem witness_PioAndSioFinishReleaseFirstAccepted_release : sources .pio = [] ++ .pio .a :: [.pio .b] ∧
    served.accepted (.pio .a) = true := by decide
theorem witness_PioAndSioFinishReleaseFirstAccepted_none : ∀ x ∈ sources .sio, served.accepted x = false := by decide

theorem witness_ChainServesFirstRequestingDevice_first : nested.wiring.chainOrder.devices = [] ++ .ctc :: [.pio, .sio] ∧
    nested.isAccepted .ctc = false ∧ nested.isRequested .ctc = true := by decide
theorem witness_ChainServesFirstRequestingDevice_last :
    (withSio .a lastBit).wiring.chainOrder.devices = [.ctc, .pio] ++ .sio :: [] ∧
      ∀ e ∈ [Device.ctc, .pio], (withSio .a { line with rxRequested := true }).isAccepted e = false ∧
        (withSio .a { line with rxRequested := true }).isRequested e = false ∧
        (withSio .a { line with rxRequested := true }).isRequested .sio = true := by decide
theorem witness_ChainServesFirstRequestingDevice_none : ¬ ∃ pre d post,
    State.reset.wiring.chainOrder.devices = pre ++ d :: post ∧
      (∀ e ∈ pre, State.reset.isAccepted e = false ∧ State.reset.isRequested e = false) ∧
      State.reset.isAccepted d = false ∧ State.reset.isRequested d = true :=
  fun ⟨_, d, _, _, _, _, h⟩ => by cases d <;> exact absurd h (by decide)
theorem witness_ChainFinishReleasesFirstDevice_release :
    nested.wiring.chainOrder.devices = [.ctc] ++ .pio :: [.sio] ∧
      (∀ e ∈ [Device.ctc], ∀ y ∈ sources e, nested.accepted y = false) ∧
      sources .pio = [] ++ .pio .a :: [.pio .b] ∧ nested.accepted (.pio .a) = true := by decide
theorem witness_ChainFinishReleasesFirstDevice_none : ∀ x, State.reset.accepted x = false
  | .ctc i => by cases i <;> rfl
  | .pio p => by cases p <;> rfl
  | .sio c k => by cases c <;> cases k <;> rfl

/-- The PIO is in service, with one source, and no other device is. -/
theorem nested_oneInService : nested.OneInService := by
  have h : ∀ d ∈ [Device.ctc, .pio, .sio], ∀ x ∈ sources d, ∀ y ∈ sources d, nested.accepted x = true →
      nested.accepted y = true → x = y := by decide
  exact fun d x y hx hy => h d (by cases d <;> decide) x hx y hy

theorem witness_ChainServiceNests_kept : nested.OneInService ∧ accepts (.pioFetchOutValue .a true) = false ∧
    ∃ t, exec (.pioFetchOutValue .a true) nested = .next t := ⟨nested_oneInService, rfl, _, rfl⟩

/-- The CTC, before the PIO in the chain, takes over. -/
theorem witness_ChainServiceNests_nested : nested.OneInService ∧ ∃ t, exec .chainAccept nested = .next t :=
  ⟨nested_oneInService, _, rfl⟩

end Sys2Proof.Tests
end

/-! PROOFS. The CTC family (41_ctc.md): a time constant written, and the return from an interrupt. -/

namespace Sys2Proof.Machine

/-! ## Finishing, with the released source given (40_contracts.md R127) -/

/-- The first accepted source in the device's order is the one released. -/
theorem finishDevice_of_first (d : Device) (s : State) (pre post : List Source) (x : Source)
    (hl : sources d = pre ++ x :: post) (hpre : ∀ y ∈ pre, s.accepted y = false) (hx : s.accepted x = true) :
    finishDevice d s = s.setFlags x (s.requested x) false := by
  have hfind : (sources d).find? s.accepted = some x :=
    List.find?_eq_some_iff_append.mpr ⟨hx, pre, post, hl, fun y hy => by simp [hpre y hy]⟩
  simp only [finishDevice, hfind]

theorem finishDevice_of_none (d : Device) (s : State) (h : ∀ x ∈ sources d, s.accepted x = false) :
    finishDevice d s = s := by
  rcases finishDevice_spec d s with ⟨pre, x, post, hl, -, hx, -⟩ | ⟨-, he⟩
  · have hmem : x ∈ sources d := by simp [hl]
    simp [h x hmem] at hx
  · exact he

/-- The CTC's sources stand in the order of their channels: before channel `i` there are only lower channels. -/
theorem sources_ctc_split (i : CtcIx) :
    ∃ pre post, sources .ctc = pre ++ .ctc i :: post ∧ ∀ y ∈ pre, ∃ j, y = .ctc j ∧ j.toNat < i.toNat := by
  cases i with
  | c0 => exact ⟨[], [.ctc .c1, .ctc .c2, .ctc .c3], rfl, by simp⟩
  | c1 => exact ⟨[.ctc .c0], [.ctc .c2, .ctc .c3], rfl, by simp [CtcIx.toNat]⟩
  | c2 => exact ⟨[.ctc .c0, .ctc .c1], [.ctc .c3], rfl, by simp [CtcIx.toNat]⟩
  | c3 => exact ⟨[.ctc .c0, .ctc .c1, .ctc .c2], [], rfl, by simp [CtcIx.toNat]⟩

/-- Every source of the CTC is one of its channels. -/
theorem exists_ctc_of_mem_sources (x : Source) (h : x ∈ sources .ctc) : ∃ i, x = .ctc i := by
  simp only [sources, List.mem_cons, List.not_mem_nil, or_false] at h
  rcases h with rfl | rfl | rfl | rfl <;> exact ⟨_, rfl⟩

/-- The lowest accepted channel of the CTC loses its accepted flag and nothing else changes (41_ctc.md R158). -/
theorem finishDevice_ctc_of_first (s : State) (i : CtcIx) (hi : (s.ctc.ch i).interruptAccepted = true)
    (hlow : ∀ j, j.toNat < i.toNat → (s.ctc.ch j).interruptAccepted = false) :
    finishDevice .ctc s = s.setCtc (s.ctc.setCh i { s.ctc.ch i with interruptAccepted := false }) := by
  obtain ⟨pre, post, hl, hpre⟩ := sources_ctc_split i
  have hnone : ∀ y ∈ pre, s.accepted y = false := by
    intro y hy
    obtain ⟨j, rfl, hj⟩ := hpre y hy
    exact hlow j hj
  exact finishDevice_of_first .ctc s pre post (.ctc i) hl hnone hi

theorem finishDevice_ctc_of_none (s : State) (h : ∀ i, (s.ctc.ch i).interruptAccepted = false) :
    finishDevice .ctc s = s := by
  refine finishDevice_of_none .ctc s fun x hx => ?_
  obtain ⟨i, rfl⟩ := exists_ctc_of_mem_sources x hx
  exact h i

theorem exec_ctcFinish (s : State) : exec .ctcFinish s = .next ((finishDevice .ctc s).ctcReply .unit) := rfl

/-- Settles O53: the released channel is the first accepted one in the order of the sources. -/
theorem ctcFinishReleasesFirstAccepted : Obligations.CtcFinishReleasesFirstAccepted := by
  unfold Obligations.CtcFinishReleasesFirstAccepted
  intro s
  constructor
  · intro i hi hlow
    rw [exec_ctcFinish, finishDevice_ctc_of_first s i hi hlow]
    rfl
  · intro hnone
    rw [exec_ctcFinish, finishDevice_ctc_of_none s hnone]
    rfl

/-! ## Writing a time constant (41_ctc.md R143) -/

/-- A channel that expects a time constant takes every byte as one. -/
theorem ctcWrite_of_expected (i : CtcIx) (b : Byte) (c : Ctc) (h : (c.ch i).expectTimeConstant = true) :
    ctcWrite i b c = c.setCh i ((c.ch i).setTimeConstant b) := by
  rcases ctcWrite_spec i b c with ⟨-, he⟩ | ⟨hf, -, -⟩ | ⟨hf, -, -⟩
  · exact he
  · simp [h] at hf
  · simp [h] at hf

theorem exec_ctcWriteControl (i : CtcIx) (b : Byte) (s : State) :
    exec (.ctcWriteControl i b) s = .next (((s.setCtc (ctcWrite i b s.ctc)).markCtc).returning .unit) := rfl

/-- Settles O14: the pending load is the byte's time constant, which lies in 1 to 256. -/
theorem timeConstantIsPending : Obligations.TimeConstantIsPending := by
  unfold Obligations.TimeConstantIsPending
  intro s i b hexpect
  obtain ⟨hlo, hhi⟩ := timeConstantOf_range b
  refine ⟨timeConstantOf b, rfl, hlo, hhi, ?_⟩
  rw [exec_ctcWriteControl, ctcWrite_of_expected i b s.ctc hexpect]
  rfl

end Sys2Proof.Machine

/-! PROOFS. The PIO family (42_pio.md): the vector word. -/

namespace Sys2Proof.Machine

/-- A byte with bit 0 clear, read as a command, is a vector word (30_encoding.md R85, R89). -/
theorem decodePio_of_even (b : Byte) (h : b.getLsbD 0 = false) :
    decodePio .command b = .vector (b.extractLsb' 1 7) := by
  simp only [decodePio, h, Bool.not_false, if_true]

/-- The seven bits a vector word carries, with bit 0 clear again, are the whole byte: they encode what was decoded. -/
theorem vectorBits_append_zero (b : Byte) (h : b.getLsbD 0 = false) : b.extractLsb' 1 7 ++ 0#1 = b := by
  have henc : encodePio (decodePio .command b) = b := encodePio_decodePio .command b
  rw [decodePio_of_even b h] at henc
  exact henc

/-- An even byte written where no mask is expected becomes the port's vector, and no event is emitted
(42_pio.md R170, R171). -/
theorem pioWrite_of_even (p : Side) (b : Byte) (d : Pio) (hnext : (d.port p).nextControl = .command)
    (heven : b.getLsbD 0 = false) :
    pioWrite p b d = some (({ d with resetState := false } : Pio).modPort p fun q => { q with vector := b }, []) := by
  rw [pioWrite_eq, hnext, decodePio_of_even b heven]
  simp only [vectorBits_append_zero b heven]

theorem Pio.port_withResetState (d : Pio) (r : Bool) (p : Side) :
    ({ d with resetState := r } : Pio).port p = d.port p := by
  cases p <;> rfl

@[simp] theorem State.emit_nil (s : State) : s.emit [] = s := by
  simp only [State.emit, List.append_nil]

/-- A control write the PIO accepts without an event changes the device and the reply only. -/
theorem State.pioWriteByte_of_silent (s : State) (p : Side) (b : Byte) (d : Pio) (h : pioWrite p b s.pio = some (d, [])) :
    s.pioWriteByte p b = .next { s with pio := d, reply := .unit } := by
  simp only [State.pioWriteByte, h, State.emit_nil]
  rfl

theorem exec_pioWriteControl (p : Side) (b : Byte) (s : State) :
    exec (.pioWriteControl p b) s = s.pioWriteByte p b := rfl

/-- Settles O25: an even byte is decoded as a vector word, whose bits put together again are that byte. -/
theorem pioVectorWordIsStored : Obligations.PioVectorWordIsStored := by
  unfold Obligations.PioVectorWordIsStored
  intro s p b hnext heven
  rw [exec_pioWriteControl, s.pioWriteByte_of_silent p b _ (pioWrite_of_even p b s.pio hnext heven), Pio.modPort,
    Pio.port_withResetState]

end Sys2Proof.Machine

/-! PROOFS. The SIO family (43_sio.md): the bytes the receive FIFO holds. -/

namespace Sys2Proof.Machine

/-- The device's invariant bounds the receive FIFO of each of its channels (10_state.md R35). -/
theorem Sio.receiveFifoLen_le_three (d : Sio) (c : Side) (h : d.Ok) : (d.ch c).receiveFifoLen ≤ 3 := by
  obtain ⟨hlen, -⟩ := (Sio.ok_iff d).mp h c
  exact hlen

theorem exec_sioAvailable (c : Side) (s : State) :
    exec (.sioAvailable c) s = .next (s.returning (.count (s.sio.ch c).receiveFifoLen)) := rfl

/-- Settles O40: only the reply is written, and the bound on the answer is the SIO's part of the invariant. -/
theorem availableReturnsFifoLength : Obligations.AvailableReturnsFifoLength := by
  unfold Obligations.AvailableReturnsFifoLength
  intro s c
  constructor
  · rw [exec_sioAvailable, State.returning]
  · rintro ⟨-, -, hsio⟩
    exact s.sio.receiveFifoLen_le_three c hsio

end Sys2Proof.Machine

/-! PROOFS. The exceptions (60_exceptions.md): the vector byte an acceptance replies with. -/

namespace Sys2Proof.Machine

/-! ## The vector byte of a source (60_exceptions.md R279) -/

/-- The offset of an SIO source, read off its channel's overrun latch alone (43_sio.md R239). -/
def overrunOffset (overrun : Bool) : Side → SioKind → Byte
  | .a, .rx => if overrun then 0x0E else 0x0C
  | .a, .tx => 0x08
  | .a, .ext => 0x0A
  | .b, .rx => if overrun then 0x06 else 0x04
  | .b, .tx => 0x00
  | .b, .ext => 0x02

theorem sioOffset_eq (d : Sio) (c : Side) (k : SioKind) :
    sioOffset d c k = overrunOffset (d.ch c).rxOverrunLatch c k := by
  cases c <;> cases k <;> rfl

/-- An offset lies in bits 3:1 of the vector (43_sio.md R239). -/
theorem overrunOffset_bits (overrun : Bool) (c : Side) (k : SioKind) :
    overrunOffset overrun c k &&& 0x0E = overrunOffset overrun c k ∧ overrunOffset overrun c k &&& 0xF1 = 0#8 := by
  cases overrun <;> cases c <;> cases k <;> decide

/-- The model's test of `wr[1]` is its bit 2 (43_sio.md R239). -/
theorem sioVectorOf_eq (d : Sio) (c : Side) (k : SioKind) :
    sioVectorOf d c k =
      if d.chB.wr.wr1.getLsbD 2 = true then
        d.chB.wr.wr2 &&& 0xF1 ||| overrunOffset (d.ch c).rxOverrunLatch c k
      else d.chB.wr.wr2 := by
  rw [← sioOffset_eq]
  rfl

/-- Bits 3:1 of `b` replaced by an offset: they are the offset, and the other bits are those of `b`. -/
theorem replacedBits_and (b : Byte) (overrun : Bool) (c : Side) (k : SioKind) :
    (b &&& 0xF1 ||| overrunOffset overrun c k) &&& 0x0E = overrunOffset overrun c k ∧
      (b &&& 0xF1 ||| overrunOffset overrun c k) &&& 0xF1 = b &&& 0xF1 := by
  obtain ⟨hin, hout⟩ := overrunOffset_bits overrun c k
  have hdisjoint : (0xF1 : Byte) &&& 0x0E = 0#8 := by decide
  constructor
  · rw [BitVec.and_or_distrib_right, BitVec.and_assoc, hdisjoint, hin, BitVec.and_zero, BitVec.zero_or]
  · rw [BitVec.and_or_distrib_right, BitVec.and_assoc, BitVec.and_self, hout, BitVec.or_zero]

/-- The byte the model computes for a source is the source's vector byte. -/
theorem State.isVector_vectorOf (s : State) (x : Source) : IsVector s (s.vectorOf x) x := by
  cases x with
  | ctc i => exact BitVec.toNat_ofNat _ 8
  | pio p => rfl
  | sio c k =>
    rw [State.vectorOf, sioVectorOf_eq, IsVector]
    split
    · obtain ⟨hin, hout⟩ := replacedBits_and s.sio.chB.wr.wr2 (s.sio.ch c).rxOverrunLatch c k
      rw [hin]
      refine ⟨?_, hout⟩
      generalize (s.sio.ch c).rxOverrunLatch = overrun
      cases overrun <;> cases c <;> cases k <;> decide
    · rfl

/-! ## What an acceptance puts in service (40_contracts.md R126, 60_exceptions.md R276) -/

theorem State.pending_iff (s : State) (x : Source) :
    s.pending x = true ↔ s.requested x = true ∧ s.accepted x = false := by
  simp [State.pending]

@[simp] theorem State.vectorOf_markCtc (s : State) (x : Source) : s.markCtc.vectorOf x = s.vectorOf x := by
  cases x <;> rfl

/-- A walk of the chain changes no flag. -/
@[simp] theorem State.accepted_markWalk (s : State) (ends : Device → Bool) (x : Source) :
    (s.markWalk ends).accepted x = s.accepted x := by
  unfold State.markWalk
  split
  · exact s.accepted_markCtc x
  · rfl

/-- A walk of the chain changes no register a vector is computed from. -/
@[simp] theorem State.vectorOf_markWalk (s : State) (ends : Device → Bool) (x : Source) :
    (s.markWalk ends).vectorOf x = s.vectorOf x := by
  unfold State.markWalk
  split
  · exact s.vectorOf_markCtc x
  · rfl

/-- From `s` to `t` one source goes in service and its vector byte, computed in `s`, is the reply. -/
def TakesSource (s t : State) : Prop :=
  ∃ x, s.accepted x = false ∧ t.accepted x = true ∧ t.reply = .byte (s.vectorOf x)

theorem takesSource_of_acceptDevice (d : Device) (s t : State) (h : acceptDevice d s = .next t) : TakesSource s t := by
  rcases acceptDevice_spec d s with ⟨-, x, -, -, -, hpending, he⟩ | ⟨-, he⟩
  · obtain ⟨-, hfree⟩ := (s.pending_iff x).mp hpending
    obtain rfl := Host.Outcome.next.inj (he.symm.trans h)
    exact ⟨x, hfree, by simp [State.setFlags_accepted], rfl⟩
  · simp [he] at h

theorem takesSource_markCtc (s t : State) : TakesSource s.markCtc t ↔ TakesSource s t := by
  simp only [TakesSource, State.accepted_markCtc, State.vectorOf_markCtc]

theorem takesSource_markWalk (s t : State) (ends : Device → Bool) :
    TakesSource (s.markWalk ends) t ↔ TakesSource s t := by
  simp only [TakesSource, State.accepted_markWalk, State.vectorOf_markWalk]

theorem exec_ctcAccept (s : State) : exec .ctcAccept s = acceptDevice .ctc s.markCtc := rfl

theorem exec_pioAccept (s : State) : exec .pioAccept s = acceptDevice .pio s := rfl

theorem exec_sioAccept (s : State) : exec .sioAccept s = acceptDevice .sio s := rfl

/-- Over the chain the acceptance is that of the device the walk finds (60_exceptions.md R276). -/
theorem exec_chainAccept_of_next (s t : State) (h : exec .chainAccept s = .next t) :
    ∃ d ends, s.chainRequest = some d ∧ acceptDevice d (s.markWalk ends) = .next t := by
  have hexec : exec .chainAccept s = execChainAccept s := rfl
  rw [hexec, execChainAccept] at h
  cases hwalk : s.chainRequest with
  | some d => rw [hwalk] at h; exact ⟨d, _, rfl, h⟩
  | none => rw [hwalk] at h; cases h

/-- Settles O52: each of the four operations is `acceptDevice` on a state with the flags and registers of `s`, and the
byte it replies with is the vector byte of the source it takes. -/
theorem acceptanceRepliesWithVector : Obligations.AcceptanceRepliesWithVector := by
  unfold Obligations.AcceptanceRepliesWithVector
  constructor
  · intro op s t hop h
    have htakes : TakesSource s t := by
      rcases hop with rfl | rfl | rfl | rfl
      · exact (takesSource_markCtc s t).mp (takesSource_of_acceptDevice .ctc _ t (exec_ctcAccept s ▸ h))
      · exact takesSource_of_acceptDevice .pio s t (exec_pioAccept s ▸ h)
      · exact takesSource_of_acceptDevice .sio s t (exec_sioAccept s ▸ h)
      · obtain ⟨d, ends, -, he⟩ := exec_chainAccept_of_next s t h
        exact (takesSource_markWalk s t ends).mp (takesSource_of_acceptDevice d _ t he)
    obtain ⟨x, hfree, htaken, hreply⟩ := htakes
    exact ⟨x, s.vectorOf x, hfree, htaken, hreply, s.isVector_vectorOf x⟩
  · rintro s ⟨hctc, -, -⟩
    obtain ⟨hvector, -⟩ := s.ctc.ok_iff.mp hctc
    exact hvector

end Sys2Proof.Machine

/-! PROOFS. The frames and the byte formats (30_encoding.md): decoding undoes encoding, both ways round. -/

namespace Sys2Proof

/-! ## A frame of each shape, parsed -/

theorem map_sideOf (c : Side) {f : Side → Instr} {i : Instr} (h : f c = i) :
    (sideOf (.ofNat 8 c.toNat)).map f = .ok i := by
  rw [sideOf_toNat, ← h]
  rfl

theorem map_ctcIxOf (k : CtcIx) {f : CtcIx → Instr} {i : Instr} (h : f k = i) :
    (ctcIxOf (.ofNat 8 k.toNat)).map f = .ok i := by
  rw [ctcIxOf_toNat, ← h]
  rfl

theorem ctcAux_bits (expect : Bool) (sel : Selector) :
    (ctcAux expect sel).getLsbD 0 = expect ∧
      (if (ctcAux expect sel).getLsbD 1 then Selector.data else .control) = sel := by
  cases expect <;> cases sel <;> decide

/-- A byte for a CTC channel is decoded by the sequencing state and the selector of its frame (30_encoding.md R81). -/
theorem parseFrame_ctcByte (i : CtcIx) (sel : Selector) (expect : Bool) {b : Byte} {x : CtcByte}
    (h : decodeCtc expect b = x) :
    parseFrame ⟨b, 2, .ofNat 8 i.toNat, ctcAux expect sel, 0⟩ = .ok (instrOfCtcByte i sel x) := by
  obtain ⟨hexpect, hsel⟩ := ctcAux_bits expect sel
  refine map_ctcIxOf i ?_
  simp only [hexpect, hsel, h]

/-- A byte for a PIO port is decoded by the sequencing state of its frame (30_encoding.md R85). -/
theorem parseFrame_pioByte (p : Side) (next : NextControl) {b : Byte} {x : PioByte} (h : decodePio next b = x) :
    parseFrame ⟨b, 1, .ofNat 8 p.toNat, .ofNat 8 next.toNat, 0⟩ = .ok (instrOfPioByte p x) := by
  rw [← h]
  cases p <;> cases next <;> rfl

/-- A byte for an SIO channel is decoded by the pointer of its frame (30_encoding.md R93). -/
theorem parseFrame_sioByte (c : Side) (aux : Byte) {b : Byte} {x : SioByte}
    (h : decodeSio (aux.extractLsb' 0 3) b = x) :
    parseFrame ⟨b, 0, .ofNat 8 c.toNat, aux, 0⟩ = .ok (instrOfSioByte c x) :=
  map_sideOf c (congrArg _ h)

/-- The three fields of a command byte are read back (30_encoding.md R94). -/
theorem decodeSio_encodeWr0 (cmd : SioCommand) (crc : BitVec 2) (ptr : BitVec 3) :
    decodeSio 0 (encodeWr0 cmd crc ptr) = .wr0 cmd crc ptr := by
  obtain ⟨hcrc, hcmd, hptr⟩ := decodeWr0_fields cmd crc ptr
  calc decodeSio 0 (encodeWr0 cmd crc ptr)
      = .wr0 (decodeSioCommand ((encodeWr0 cmd crc ptr).extractLsb' 3 3)) ((encodeWr0 cmd crc ptr).extractLsb' 6 2)
          ((encodeWr0 cmd crc ptr).extractLsb' 0 3) := rfl
    _ = .wr0 cmd crc ptr := by rw [hcrc, hcmd, hptr]

theorem parseFrame_wr0 (c : Side) (cmd : SioCommand) (crc : BitVec 2) (ptr : BitVec 3) :
    parseFrame ⟨encodeWr0 cmd crc ptr, 0, .ofNat 8 c.toNat, 0, 0⟩ = .ok (instrOfSioByte c (.wr0 cmd crc ptr)) :=
  parseFrame_sioByte c 0 (decodeSio_encodeWr0 cmd crc ptr)

/-- The flag a frame carries in its count. -/
theorem Frame.flag_ofBool (d o i x : Byte) (v : Bool) : (Frame.mk d o i x (.ofNat 32 v.toNat)).flag = v := by
  show (BitVec.ofNat 32 v.toNat).getLsbD 0 = v
  cases v <;> decide

/-- A count below `2 ^ 32` is carried whole (log 12). -/
theorem toNat_ofNat_of_pulseCountOk (n : Nat) : (BitVec.ofNat 32 n).toNat = n ↔ pulseCountOk n = true := by
  rw [BitVec.toNat_ofNat, pulseCountOk, decide_eq_true_iff]
  exact Nat.mod_eq_iff_lt (by decide)

/-- A register number 1 to 7 is carried whole in the second operand byte, and 0 is refused (log 13). -/
theorem parseFrame_setReg (c : Side) (n : BitVec 3) (b : Byte) :
    parseFrame (Instr.sioSetReg c n b).frame =
      if setRegNumberOk n then .ok (.sioSetReg c n b) else .error .indexOutOfRange := by
  have hparse : parseFrame (Instr.sioSetReg c n b).frame = ((sideOf (.ofNat 8 c.toNat)).bind fun e =>
      if n.setWidth 8 = (0 : Byte) then .error .indexOutOfRange
      else if 7 < (n.setWidth 8 : Byte).toNat then .error .indexOutOfRange
      else .ok (.sioSetReg e ((n.setWidth 8 : Byte).extractLsb' 0 3) b)) := rfl
  have hlow : (n.setWidth 8 : Byte).extractLsb' 0 3 = n := by
    clear hparse
    revert n
    decide
  have hbound : ¬ 7 < (n.setWidth 8 : Byte).toNat := by
    clear hparse hlow
    revert n
    decide
  have hzero : (n.setWidth 8 = (0 : Byte)) ↔ n = 0 := by
    clear hparse hlow hbound
    revert n
    decide
  rw [hparse, sideOf_toNat, hlow]
  simp only [Except.bind, hbound, hzero, if_false, setRegNumberOk, bne_iff_ne, ne_eq, ite_not]

/-! ## The frame of every instruction -/

/-- An instruction's frame names the instruction exactly when its operands fit the frame. -/
theorem parseFrame_frame_iff (i : Instr) : parseFrame i.frame = .ok i ↔ i.wellFormed = true := by
  have of_ok {i : Instr} (hw : i.wellFormed = true) (hp : parseFrame i.frame = .ok i) :
      parseFrame i.frame = .ok i ↔ i.wellFormed = true := iff_of_true hp hw
  have ok_iff {i j : Instr} : (Except.ok i : Except DecodeError Instr) = .ok j ↔ i = j :=
    ⟨Except.ok.inj, congrArg _⟩
  cases i with
  | sioSetReg c n b =>
    rw [parseFrame_setReg, Instr.wellFormed]
    cases setRegNumberOk n <;> simp
  | ctcExternalPulses i n =>
    rw [Instr.wellFormed, ← toNat_ofNat_of_pulseCountOk]
    refine (Eq.congr_left (map_ctcIxOf i rfl)).trans (ok_iff.trans ?_)
    simp only [Instr.ctcExternalPulses.injEq, true_and, Instr.frame]
  | sioClockPulseReceiver c n =>
    rw [Instr.wellFormed, ← toNat_ofNat_of_pulseCountOk]
    refine (Eq.congr_left (map_sideOf c rfl)).trans (ok_iff.trans ?_)
    simp only [Instr.sioClockPulseReceiver.injEq, true_and, Instr.frame]
  | sioClockPulseSender c n =>
    rw [Instr.wellFormed, ← toNat_ofNat_of_pulseCountOk]
    refine (Eq.congr_left (map_sideOf c rfl)).trans (ok_iff.trans ?_)
    simp only [Instr.sioClockPulseSender.injEq, true_and, Instr.frame]
  -- the bytes of the formats
  | ctcTc i sel t => exact of_ok rfl (parseFrame_ctcByte i sel true rfl)
  | ctcVec i sel base x => exact of_ok rfl (parseFrame_ctcByte i sel false (decodeCtc_vector base x))
  | ctcCw i sel w => exact of_ok rfl (parseFrame_ctcByte i sel false (decodeCtc_control w))
  | pioDir p m => exact of_ok rfl (parseFrame_pioByte p .directionMask rfl)
  | pioImask p m => exact of_ok rfl (parseFrame_pioByte p .interruptMask rfl)
  | pioVec p v => exact of_ok rfl (parseFrame_pioByte p .command (decodePio_vector v))
  | pioMode p m x => exact of_ok rfl (parseFrame_pioByte p .command (decodePio_mode m x))
  | pioIcw p w => exact of_ok rfl (parseFrame_pioByte p .command (decodePio_condition w))
  | pioIew p e x => exact of_ok rfl (parseFrame_pioByte p .command (decodePio_enable e x))
  | pioRsvd p x => exact of_ok rfl (parseFrame_pioByte p .command (decodePio_reserved x))
  | pioRsvdB p x => exact of_ok rfl (parseFrame_pioByte p .command (decodePio_reservedB x))
  | sioWr0Null c crc ptr => exact of_ok rfl (parseFrame_wr0 c .null crc ptr)
  | sioWr0Cmd1None c crc ptr => exact of_ok rfl (parseFrame_wr0 c .cmd1None crc ptr)
  | sioWr0ResetExtStatus c crc ptr => exact of_ok rfl (parseFrame_wr0 c .resetExtStatus crc ptr)
  | sioWr0ChannelReset c crc ptr => exact of_ok rfl (parseFrame_wr0 c .channelReset crc ptr)
  | sioWr0EnableFirstChar c crc ptr => exact of_ok rfl (parseFrame_wr0 c .enableFirstChar crc ptr)
  | sioWr0ResetTxInt c crc ptr => exact of_ok rfl (parseFrame_wr0 c .resetTxInt crc ptr)
  | sioWr0ErrorReset c crc ptr => exact of_ok rfl (parseFrame_wr0 c .errorReset crc ptr)
  | sioWr0Reti c crc ptr => exact of_ok rfl (parseFrame_wr0 c .reti crc ptr)
  | sioWr1 c w => exact of_ok rfl (parseFrame_sioByte c 1 (congrArg SioByte.wr1 (decodeWr1_encodeWr1 w)))
  | sioWr3 c w => exact of_ok rfl (parseFrame_sioByte c 3 (congrArg SioByte.wr3 (decodeWr3_encodeWr3 w)))
  | sioWr4 c w => exact of_ok rfl (parseFrame_sioByte c 4 (congrArg SioByte.wr4 (decodeWr4_encodeWr4 w)))
  | sioWr5 c w => exact of_ok rfl (parseFrame_sioByte c 5 (congrArg SioByte.wr5 (decodeWr5_encodeWr5 w)))
  | sioWr2 c v => exact of_ok rfl (parseFrame_sioByte c 2 rfl)
  | sioWr6 c v => exact of_ok rfl (parseFrame_sioByte c 6 rfl)
  | sioWr7 c v => exact of_ok rfl (parseFrame_sioByte c 7 rfl)
  -- the operations with a channel, a port or a flag
  | ctcConnectCascade src dst => cases src <;> cases dst <;> exact of_ok rfl rfl
  | ctcWriteControl i | ctcWriteData i | ctcReadData i | ctcReadControl i => exact of_ok rfl (map_ctcIxOf i rfl)
  | ctcExternalEdge i rising =>
    exact of_ok rfl (map_ctcIxOf i (congrArg (Instr.ctcExternalEdge i) (Frame.flag_ofBool _ _ _ _ rising)))
  | pioPutInValue p v m strobe =>
    exact of_ok rfl (map_sideOf p (congrArg (Instr.pioPutInValue p v m) (Frame.flag_ofBool _ _ _ _ strobe)))
  | pioFetchOutValue p strobe =>
    exact of_ok rfl (map_sideOf p (congrArg (Instr.pioFetchOutValue p) (Frame.flag_ofBool _ _ _ _ strobe)))
  | sioSetClearToSend c level =>
    exact of_ok rfl (map_sideOf c (congrArg (Instr.sioSetClearToSend c) (Frame.flag_ofBool _ _ _ _ level)))
  | sioSetDataCarrierDetect c level =>
    exact of_ok rfl (map_sideOf c (congrArg (Instr.sioSetDataCarrierDetect c) (Frame.flag_ofBool _ _ _ _ level)))
  | ctcReset powerOn | pioReset powerOn | sioReset powerOn => cases powerOn <;> exact of_ok rfl rfl
  | sioRr0 c | sioRr1 c | pioWriteControl c | pioWriteData c | pioReadData c | pioReadControl c | sioWriteControl c
  | sioReadControl c | sioWriteData c | sioReadData c | sioAvailable c | sioPutToReceiver c =>
    exact of_ok rfl (map_sideOf c rfl)
  -- the operations of a whole device
  | ctcVector | pioVector | sioVector | ctcOnClockPulses | ctcIsRequested | ctcIsAccepted | ctcAccept | ctcFinish
  | ctcStatusSnapshot | pioOnClockPulses | pioIsRequested | pioIsAccepted | pioAccept | pioFinish | pioStatusSnapshot
  | sioOnClockPulses | sioIsRequested | sioIsAccepted | sioAccept | sioFinish | sioStatusSnapshot | chainRequest
  | chainAccept | chainFinish => exact of_ok rfl rfl

/-- Settles O4: the frame of a well-formed instruction names that instruction. -/
theorem decodeOfEncode : Obligations.DecodeOfEncode := by
  unfold Obligations.DecodeOfEncode
  intro i hi
  exact (decode_eq_ok_iff (encode i) i).mpr ⟨rfl, (parseFrame_frame_iff i).mpr hi⟩

/-- Settles O5: the decoder checks that the bytes are the frame of the instruction it read, and a frame names no
ill-formed instruction. -/
theorem decodedBytesAreTheEncoding : Obligations.DecodedBytesAreTheEncoding := by
  unfold Obligations.DecodedBytesAreTheEncoding
  intro bs i h
  obtain ⟨hbs, hparse⟩ := (decode_eq_ok_iff bs i).mp h
  exact ⟨hbs.symm, (parseFrame_frame_iff i).mp hparse⟩

end Sys2Proof

/-! PROOFS. The state after reset, the example bytes, and the step (00_scope.md R5, 20_memory.md R60, R61). -/

namespace Sys2Proof.Machine

/-! ## Reset (70_reset_and_hazards.md R301) -/

/-- Settles O1: every channel and port at reset is the record of its power-on values. -/
theorem resetLeavesPowerOnValues : Obligations.ResetLeavesPowerOnValues := by
  unfold Obligations.ResetLeavesPowerOnValues
  refine ⟨rfl, fun i => ?_, rfl, fun p => ?_, fun c => ?_⟩
  · cases i <;> rfl
  · cases p <;> rfl
  · cases c <;> rfl

theorem CtcChannel.powerOn_ok : CtcChannel.powerOn.Ok :=
  ⟨nofun, nofun, by decide, by decide, nofun⟩

/-- Settles O6: the CTC's channels are unloaded and unwired, and a PIO or SIO reset leaves the invariant of its
device. -/
theorem invariantsHoldAtReset : Obligations.InvariantsHoldAtReset := by
  unfold Obligations.InvariantsHoldAtReset
  have hctc : Ctc.powerOn.Ok := by
    refine (Ctc.ok_iff _).mpr ⟨by decide, fun i => ?_, by decide⟩
    cases i <;> exact CtcChannel.powerOn_ok
  exact ⟨hctc, Pio.powerOn.resetDevice_ok true, Sio.powerOn.resetDevice_ok true⟩

/-! ## The step (20_memory.md R66) -/

theorem step_of_decode_ok (s : State) (f : List Byte) (rest : List (List Byte)) (i : Instr) (hs : s.input = f :: rest)
    (hf : decode f = .ok i) : step s = exec i (s.setInput rest) := by
  rcases fetch_spec s with ⟨hnil, -⟩ | ⟨g, tail, hcons, hfetch⟩
  · simp [hs] at hnil
  · obtain ⟨rfl, rfl⟩ := List.cons.inj (hs.symm.trans hcons)
    simp only [step, hfetch, hf]

theorem step_of_decode_error (s : State) (f : List Byte) (rest : List (List Byte)) (e : DecodeError)
    (hs : s.input = f :: rest) (hf : decode f = .error e) : step s = .refused (refusalOf e) := by
  rcases fetch_spec s with ⟨hnil, -⟩ | ⟨g, tail, hcons, hfetch⟩
  · simp [hs] at hnil
  · obtain ⟨rfl, rfl⟩ := List.cons.inj (hs.symm.trans hcons)
    simp only [step, hfetch, hf]

theorem step_of_no_input (s : State) (hs : s.input = []) : step s = .next s := by
  rcases fetch_spec s with ⟨-, hfetch⟩ | ⟨g, tail, hcons, -⟩
  · simp only [step, hfetch]
  · simp [hs] at hcons

/-- Settles O2, case by case on what the fetch and the decoder answer. -/
theorem stepRunsDecodedInstruction : Obligations.StepRunsDecodedInstruction := by
  unfold Obligations.StepRunsDecodedInstruction
  exact ⟨step_of_decode_ok, fun s f rest e hs hf => ⟨_, step_of_decode_error s f rest e hs hf⟩, step_of_no_input⟩

/-- Settles O3, by evaluating the decoder on the nine frames. -/
theorem exampleBytesDecode : Obligations.ExampleBytesDecode := by
  unfold Obligations.ExampleBytesDecode
  refine ⟨?_, ?_, ?_, ?_, ?_, ?_, ?_, ?_, ?_⟩ <;> decide

/-- What a step can do: nothing with no operation waiting, else one instruction. -/
theorem step_next_cases (s t : State) (h : step s = .next t) :
    t = s ∨ ∃ i rest, exec i (s.setInput rest) = .next t := by
  cases hs : s.input with
  | nil =>
    rw [step_of_no_input s hs] at h
    exact .inl (Host.Outcome.next.inj h).symm
  | cons f rest =>
    cases hf : decode f with
    | ok i => exact .inr ⟨i, rest, step_of_decode_ok s f rest i hs hf ▸ h⟩
    | error e =>
      rw [step_of_decode_error s f rest e hs hf] at h
      cases h

end Sys2Proof.Machine

/-! PROOFS. What an instruction can do, said once (20_memory.md R60, R61): one relation for the operations of each
device and one for the chain's, and `exec` answers a next state only by one of them. -/

namespace Sys2Proof.Machine

/-- What an operation of the CTC can do (41_ctc.md). -/
inductive CtcEffect (i : Instr) (s : State) : State → Prop where
  | write (k : CtcIx) (b : Byte) : CtcEffect i s (s.ctcWriteByte k b)
  | reply (r : Reply) : CtcEffect i s (s.ctcReply r)
  | pulses (n : Nat) : CtcEffect i s (s.ctcRun (repeatPulse ctcPulse n s.ctc))
  | edge (k : CtcIx) (rising : Bool) : CtcEffect i s (s.ctcRun (ctcEdge k rising s.ctc))
  | externalPulses (k : CtcIx) (n : Nat) : CtcEffect i s (s.ctcRun (repeatPulse (trigger cascadeDepth k) n s.ctc))
  | link (a b : CtcIx) : i = .ctcConnectCascade a b → s.ctc.linkAllowed a b = true →
      CtcEffect i s ((s.setCtc (s.ctc.link a b)).returning .unit)
  | accept (t : State) : accepts i = true → acceptDevice .ctc s.markCtc = .next t → CtcEffect i s t
  | finish : CtcEffect i s ((finishDevice .ctc s).ctcReply .unit)
  | reset (powerOn : Bool) : CtcEffect i s (s.ctcRun (s.ctc.resetDevice powerOn, []))

/-- What an operation of the PIO can do (42_pio.md). -/
inductive PioEffect (i : Instr) (s : State) : State → Prop where
  | write (p : Side) (b : Byte) (r : Pio × List Event) : pioWrite p b s.pio = some r → PioEffect i s (s.pioRun r .unit)
  | writeData (p : Side) (v : Byte) : PioEffect i s (s.pioRun (pioWriteData p v s.pio) .unit)
  | readData (p : Side) : PioEffect i s (s.pioRun (pioReadData p s.pio) (.byte (pioReadValue p s.pio)))
  | put (p : Side) (v m : Byte) (strobe : Bool) : PioEffect i s (s.pioRun (pioPut p v m strobe s.pio, []) .unit)
  | fetch (p : Side) (strobe : Bool) :
      PioEffect i s (s.pioRun (pioFetch p strobe s.pio, []) (.byte (pioFetchValue p s.pio)))
  | reply (r : Reply) : PioEffect i s (s.returning r)
  | draw : PioEffect i s s.returnDraw
  | accept (t : State) : accepts i = true → acceptDevice .pio s = .next t → PioEffect i s t
  | finish : PioEffect i s ((finishDevice .pio s).returning .unit)
  | reset (powerOn : Bool) : i = .pioReset powerOn → PioEffect i s (s.pioRun (s.pio.resetDevice powerOn, []) .unit)

/-- What an operation of the SIO can do (43_sio.md). -/
inductive SioEffect (i : Instr) (s : State) : State → Prop where
  | write (c : Side) (b : Byte) : SioEffect i s ((s.sioWriteByte c b).returning .unit)
  | writeTwice (c : Side) (a b : Byte) : SioEffect i s (((s.sioWriteByte c a).sioWriteByte c b).returning .unit)
  | readControl (c : Side) : SioEffect i s (s.sioReadControl c)
  | readData (c : Side) : SioEffect i s (s.sioReadData c)
  | reply (r : Reply) : SioEffect i s (s.returning r)
  | writeData (c : Side) (v : Byte) :
      SioEffect i s ((s.modSio c fun q => { q with txBuffer := v, txBufferEmpty := false }).returning .unit)
  | put (c : Side) (v : Byte) :
      SioEffect i s ((s.modSio c fun q => q.putByte v).returning (.bool (s.sio.ch c).takesByte))
  | cts (c : Side) (level : Bool) :
      SioEffect i s ((s.modSio c fun q => { q.modemChange q.cts level with cts := some level }).returning .unit)
  | dcd (c : Side) (level : Bool) :
      SioEffect i s ((s.modSio c fun q => { q.modemChange q.dcd level with dcd := some level }).returning .unit)
  | rxPulses (c : Side) (n : Nat) : SioEffect i s (s.sioRun (repeatPulse (sioRxPulse c) n s.sio))
  | txPulses (c : Side) (n : Nat) : SioEffect i s (s.sioRun (repeatPulse (sioTxPulse c) n s.sio))
  | pulses (n : Nat) : SioEffect i s (s.sioRun (repeatPulse (sioPulse s.wiring) n s.sio))
  | accept (t : State) : accepts i = true → acceptDevice .sio s = .next t → SioEffect i s t
  | finish : SioEffect i s ((finishDevice .sio s).returning .unit)
  | reset (powerOn : Bool) : SioEffect i s (s.sioRun (s.sio.resetDevice powerOn, []))

/-- What an operation of the chain controller can do (60_exceptions.md R275 to R277). -/
inductive ChainEffect (i : Instr) (s : State) : State → Prop where
  | request (ends : Device → Bool) : ChainEffect i s ((s.markWalk ends).returning (.device s.chainRequest))
  | accept (d : Device) (ends : Device → Bool) (t : State) : accepts i = true → s.chainRequest = some d →
      acceptDevice d (s.markWalk ends) = .next t → ChainEffect i s t
  | finish (d : Device) (ends : Device → Bool) : s.chainServed = some d →
      ChainEffect i s (finishDevice d ((s.markWalk ends).returning .unit))
  | idle (ends : Device → Bool) : s.chainServed = none → ChainEffect i s ((s.markWalk ends).returning .unit)

/-- What an instruction can do, by the device it is an operation of. -/
def Effect (i : Instr) (s t : State) : Prop :=
  match deviceOf i with
  | some .ctc => CtcEffect i s t
  | some .pio => PioEffect i s t
  | some .sio => SioEffect i s t
  | none => ChainEffect i s t

/-! ## `exec` answers by one of the effects -/

theorem PioEffect.of_pioWriteByte {i : Instr} {s t : State} {p : Side} {b : Byte} (h : s.pioWriteByte p b = .next t) :
    PioEffect i s t := by
  unfold State.pioWriteByte at h
  cases hw : pioWrite p b s.pio with
  | some r => rw [hw] at h; cases h; exact .write p b r hw
  | none => rw [hw] at h; cases h

theorem CtcEffect.of_connectCascade {a b : CtcIx} {s t : State} (h : exec (.ctcConnectCascade a b) s = .next t) :
    CtcEffect (.ctcConnectCascade a b) s t := by
  have hexec : exec (.ctcConnectCascade a b) s = execCtcConnectCascade a b s := rfl
  rw [hexec, execCtcConnectCascade] at h
  split at h
  · cases h
  · next hc =>
    cases h
    simp only [Bool.or_eq_true, Bool.not_eq_true', not_or, Bool.not_eq_false] at hc
    exact .link a b rfl hc.2

theorem SioEffect.of_setReg {c : Side} {n : BitVec 3} {b : Byte} {s t : State}
    (h : exec (.sioSetReg c n b) s = .next t) : SioEffect (.sioSetReg c n b) s t := by
  have hexec : exec (.sioSetReg c n b) s = execSioSetReg c n b s := rfl
  rw [hexec, execSioSetReg] at h
  split at h
  · cases h; exact .writeTwice c _ b
  · cases h

theorem ChainEffect.of_chainAccept {s t : State} (h : exec .chainAccept s = .next t) :
    ChainEffect .chainAccept s t := by
  obtain ⟨d, ends, hd, ht⟩ := exec_chainAccept_of_next s t h
  exact .accept d ends t rfl hd ht

theorem ChainEffect.of_chainFinish {s t : State} (h : exec .chainFinish s = .next t) :
    ChainEffect .chainFinish s t := by
  have hexec : exec .chainFinish s = execChainFinish s := rfl
  rw [hexec, execChainFinish] at h
  cases hd : s.chainServed with
  | some d => simp only [hd] at h; cases h; exact .finish d _ hd
  | none => simp only [hd] at h; cases h; exact .idle _ hd

/-- An instruction that completes has one of the effects of its device. -/
theorem exec_effect (i : Instr) (s t : State) (h : exec i s = .next t) : Effect i s t := by
  cases i with
  -- bytes written to a CTC channel
  | ctcTc k | ctcVec k | ctcCw k | ctcWriteControl k | ctcWriteData k => cases h; exact CtcEffect.write k _
  -- bytes written to a PIO control selector
  | pioDir | pioImask | pioVec | pioMode | pioIcw | pioIew | pioRsvd | pioRsvdB | pioWriteControl =>
    exact PioEffect.of_pioWriteByte h
  -- bytes written to an SIO control selector
  | sioWr0Null c | sioWr0Cmd1None c | sioWr0ResetExtStatus c | sioWr0ChannelReset c | sioWr0EnableFirstChar c
  | sioWr0ResetTxInt c | sioWr0ErrorReset c | sioWr0Reti c | sioWr1 c | sioWr2 c | sioWr3 c | sioWr4 c | sioWr5 c
  | sioWr6 c | sioWr7 c | sioWriteControl c => cases h; exact SioEffect.write c _
  | sioSetReg => exact SioEffect.of_setReg h
  -- acceptances
  | ctcVector | ctcAccept => exact CtcEffect.accept t rfl h
  | pioVector | pioAccept => exact PioEffect.accept t rfl h
  | sioVector | sioAccept => exact SioEffect.accept t rfl h
  | chainAccept => exact ChainEffect.of_chainAccept h
  -- the other CTC operations
  | ctcReadData | ctcReadControl | ctcIsRequested | ctcIsAccepted | ctcStatusSnapshot =>
    cases h
    exact CtcEffect.reply _
  | ctcOnClockPulses n => cases h; exact CtcEffect.pulses _
  | ctcExternalEdge k rising => cases h; exact CtcEffect.edge k rising
  | ctcExternalPulses k n => cases h; exact CtcEffect.externalPulses k n
  | ctcConnectCascade => exact CtcEffect.of_connectCascade h
  | ctcFinish => cases h; exact CtcEffect.finish
  | ctcReset powerOn => cases h; exact CtcEffect.reset powerOn
  -- the other PIO operations
  | pioWriteData p v => cases h; exact PioEffect.writeData p v
  | pioReadData p => cases h; exact PioEffect.readData p
  | pioPutInValue p v m strobe => cases h; exact PioEffect.put p v m strobe
  | pioFetchOutValue p strobe => cases h; exact PioEffect.fetch p strobe
  | pioReadControl => cases h; exact PioEffect.draw
  | pioOnClockPulses | pioIsRequested | pioIsAccepted | pioStatusSnapshot => cases h; exact PioEffect.reply _
  | pioFinish => cases h; exact PioEffect.finish
  | pioReset powerOn => cases h; exact PioEffect.reset powerOn rfl
  -- the other SIO operations
  | sioRr0 c | sioRr1 c | sioReadControl c => cases h; exact SioEffect.readControl c
  | sioReadData c => cases h; exact SioEffect.readData c
  | sioWriteData c v => cases h; exact SioEffect.writeData c v
  | sioPutToReceiver c v => cases h; exact SioEffect.put c v
  | sioSetClearToSend c level => cases h; exact SioEffect.cts c level
  | sioSetDataCarrierDetect c level => cases h; exact SioEffect.dcd c level
  | sioClockPulseReceiver c n => cases h; exact SioEffect.rxPulses c n
  | sioClockPulseSender c n => cases h; exact SioEffect.txPulses c n
  | sioOnClockPulses n => cases h; exact SioEffect.pulses _
  | sioAvailable | sioIsRequested | sioIsAccepted | sioStatusSnapshot => cases h; exact SioEffect.reply _
  | sioFinish => cases h; exact SioEffect.finish
  | sioReset powerOn => cases h; exact SioEffect.reset powerOn
  -- the chain
  | chainRequest => cases h; exact ChainEffect.request _
  | chainFinish => exact ChainEffect.of_chainFinish h

/-- The effects, device by device. -/
theorem exec_cases {i : Instr} {s t : State} (h : exec i s = .next t) :
    (deviceOf i = some .ctc ∧ CtcEffect i s t) ∨ (deviceOf i = some .pio ∧ PioEffect i s t) ∨
      (deviceOf i = some .sio ∧ SioEffect i s t) ∨ (deviceOf i = none ∧ ChainEffect i s t) := by
  have heffect := exec_effect i s t h
  unfold Effect at heffect
  split at heffect
  · next hd => exact .inl ⟨hd, heffect⟩
  · next hd => exact .inr (.inl ⟨hd, heffect⟩)
  · next hd => exact .inr (.inr (.inl ⟨hd, heffect⟩))
  · next hd => exact .inr (.inr (.inr ⟨hd, heffect⟩))

end Sys2Proof.Machine

/-! PROOFS. What each effect leaves as it was, and that every effect keeps the invariants (10_state.md R20, R37, R44;
R23, R27, R35). -/

namespace Sys2Proof.Machine

/-! ## The device of a source -/

/-- The device a source belongs to (60_exceptions.md R273). -/
def Source.device : Source → Device
  | .ctc _ => .ctc
  | .pio _ => .pio
  | .sio _ _ => .sio

theorem mem_sources_iff (x : Source) (d : Device) : x ∈ sources d ↔ x.device = d := by
  constructor
  · intro h
    revert h
    rcases x with i | p | ⟨c, k⟩ <;> cases d <;> simp [sources, Source.device]
  · rintro rfl
    rcases x with i | p | ⟨c, k⟩
    · exact mem_sources_ctc i
    · exact mem_sources_pio p
    · exact mem_sources_sio c k

/-! ## Acceptances, returns and walks, as effects on the state -/

theorem acceptDevice_next {d : Device} {s t : State} (h : acceptDevice d s = .next t) :
    ∃ x, x.device = d ∧ s.requested x = true ∧ s.accepted x = false ∧
      t = (s.setFlags x false true).returning (.byte (s.vectorOf x)) := by
  rcases acceptDevice_spec d s with ⟨pre, x, post, hl, -, hpending, he⟩ | ⟨-, he⟩
  · obtain ⟨hreq, hacc⟩ := (s.pending_iff x).mp hpending
    exact ⟨x, (mem_sources_iff x d).mp (by simp [hl]), hreq, hacc, (Host.Outcome.next.inj (he.symm.trans h)).symm⟩
  · simp [he] at h

theorem finishDevice_cases (d : Device) (s : State) :
    finishDevice d s = s ∨
      ∃ x, x.device = d ∧ s.accepted x = true ∧ finishDevice d s = s.setFlags x (s.requested x) false := by
  rcases finishDevice_spec d s with ⟨pre, x, post, hl, -, hx, he⟩ | ⟨-, he⟩
  · exact .inr ⟨x, (mem_sources_iff x d).mp (by simp [hl]), hx, he⟩
  · exact .inl he

theorem State.markWalk_cases (s : State) (ends : Device → Bool) :
    s.markWalk ends = s ∨ s.markWalk ends = s.markCtc := by
  unfold State.markWalk
  split
  · exact .inr rfl
  · exact .inl rfl

@[simp] theorem State.requested_markWalk (s : State) (ends : Device → Bool) (x : Source) :
    (s.markWalk ends).requested x = s.requested x := by
  rcases s.markWalk_cases ends with h | h <;> rw [h]
  exact s.requested_markCtc x

/-- A walk changes at most the mark that the CTC has run (log 9). -/
theorem State.markWalk_eq (s : State) (ends : Device → Bool) :
    ∃ o, s.markWalk ends = { s with ctcOperated := o } := by
  rcases s.markWalk_cases ends with h | h
  · exact ⟨s.ctcOperated, h⟩
  · exact ⟨true, h⟩

/-! ## Frames: what each effect leaves as it was -/

/-- The flags of a source stand in its device. -/
theorem State.setFlags_eq (s : State) (x : Source) (r a : Bool) :
    (x.device = .ctc ∧ ∃ c, s.setFlags x r a = s.setCtc c) ∨ (x.device = .pio ∧ ∃ p, s.setFlags x r a = s.setPio p) ∨
      (x.device = .sio ∧ ∃ d, s.setFlags x r a = s.setSio d) := by
  cases x with
  | ctc i => exact .inl ⟨rfl, _, rfl⟩
  | pio p => exact .inr (.inl ⟨rfl, _, rfl⟩)
  | sio c k => exact .inr (.inr ⟨rfl, _, rfl⟩)

theorem State.setFlags_of_ctc (s : State) {x : Source} (hx : x.device = .ctc) (r a : Bool) :
    ∃ c, s.setFlags x r a = s.setCtc c := by
  rcases s.setFlags_eq x r a with ⟨-, h⟩ | ⟨h, -⟩ | ⟨h, -⟩
  · exact h
  · simp [hx] at h
  · simp [hx] at h

theorem State.setFlags_of_pio (s : State) {x : Source} (hx : x.device = .pio) (r a : Bool) :
    ∃ p, s.setFlags x r a = s.setPio p := by
  rcases s.setFlags_eq x r a with ⟨h, -⟩ | ⟨-, h⟩ | ⟨h, -⟩
  · simp [hx] at h
  · exact h
  · simp [hx] at h

theorem State.setFlags_of_sio (s : State) {x : Source} (hx : x.device = .sio) (r a : Bool) :
    ∃ d, s.setFlags x r a = s.setSio d := by
  rcases s.setFlags_eq x r a with ⟨h, -⟩ | ⟨h, -⟩ | ⟨-, h⟩
  · simp [hx] at h
  · simp [hx] at h
  · exact h

theorem finishDevice_ctc_frame (s : State) : ∃ c, finishDevice .ctc s = s.setCtc c := by
  rcases finishDevice_cases .ctc s with he | ⟨x, hx, -, he⟩ <;> rw [he]
  · exact ⟨s.ctc, rfl⟩
  · exact s.setFlags_of_ctc hx _ _

theorem finishDevice_pio_frame (s : State) : ∃ p, finishDevice .pio s = s.setPio p := by
  rcases finishDevice_cases .pio s with he | ⟨x, hx, -, he⟩ <;> rw [he]
  · exact ⟨s.pio, rfl⟩
  · exact s.setFlags_of_pio hx _ _

theorem finishDevice_sio_frame (s : State) : ∃ d, finishDevice .sio s = s.setSio d := by
  rcases finishDevice_cases .sio s with he | ⟨x, hx, -, he⟩ <;> rw [he]
  · exact ⟨s.sio, rfl⟩
  · exact s.setFlags_of_sio hx _ _

theorem sioCommand_frame (c : Side) (cmd : SioCommand) (s : State) : ∃ d, sioCommand c cmd s = s.setSio d := by
  cases cmd with
  | null | cmd1None => exact ⟨s.sio, rfl⟩
  | resetExtStatus | channelReset | enableFirstChar | resetTxInt | errorReset => exact ⟨_, rfl⟩
  | reti =>
    cases c with
    | a => exact finishDevice_sio_frame s
    | b => exact ⟨s.sio, rfl⟩

/-- A byte written to an SIO channel changes the SIO only. -/
theorem State.sioWriteByte_frame (s : State) (c : Side) (b : Byte) : ∃ d, s.sioWriteByte c b = s.setSio d := by
  rcases s.sioWriteByte_spec c b with ⟨-, he⟩ | ⟨-, he⟩ <;> rw [he]
  · obtain ⟨d, hd⟩ := sioCommand_frame c (decodeSioCommand (b.extractLsb' 3 3))
      (s.modSio c fun q => { q with wr := { q.wr with wr0 := b } })
    exact ⟨d, hd⟩
  · exact ⟨_, rfl⟩

/-- A control read changes the pointer, the reply and the count of free bytes only. -/
theorem State.sioReadControl_frame (s : State) (c : Side) :
    ∃ d r n, s.sioReadControl c = { s with sio := d, reply := r, draws := n } := by
  unfold State.sioReadControl
  dsimp only
  split
  · exact ⟨_, _, s.draws, rfl⟩
  · split
    · exact ⟨_, _, s.draws, rfl⟩
    · exact ⟨_, _, s.draws + 1, rfl⟩

theorem State.sioReadData_frame (s : State) (c : Side) :
    ∃ d r n, s.sioReadData c = { s with sio := d, reply := r, draws := n } := by
  rcases s.sioReadData_spec c with ⟨-, he⟩ | ⟨-, he⟩ <;> rw [he]
  · exact ⟨s.sio, _, s.draws + 1, rfl⟩
  · exact ⟨_, _, s.draws, rfl⟩

theorem CtcEffect.frame {i : Instr} {s t : State} (h : CtcEffect i s t) :
    ∃ c o es r, t = { s with ctc := c, ctcOperated := o, trace := s.trace ++ es, reply := r } := by
  cases h with
  | write => exact ⟨_, true, [], _, by rw [List.append_nil]; rfl⟩
  | reply => exact ⟨s.ctc, true, [], _, by rw [List.append_nil]; rfl⟩
  | pulses | edge | externalPulses | reset => exact ⟨_, true, _, _, rfl⟩
  | link => exact ⟨_, s.ctcOperated, [], _, by rw [List.append_nil]; rfl⟩
  | accept t _ ht =>
    obtain ⟨x, hx, -, -, rfl⟩ := acceptDevice_next ht
    obtain ⟨c, hc⟩ := s.markCtc.setFlags_of_ctc hx false true
    exact ⟨c, true, [], _, by rw [hc, List.append_nil]; rfl⟩
  | finish =>
    obtain ⟨c, hc⟩ := finishDevice_ctc_frame s
    exact ⟨c, true, [], _, by rw [hc, List.append_nil]; rfl⟩

theorem PioEffect.frame {i : Instr} {s t : State} (h : PioEffect i s t) :
    ∃ p es r n, t = { s with pio := p, trace := s.trace ++ es, reply := r, draws := n } := by
  cases h with
  | write | writeData | readData | put | fetch | reset => exact ⟨_, _, _, s.draws, rfl⟩
  | reply | draw => exact ⟨s.pio, [], _, _, by rw [List.append_nil]; rfl⟩
  | accept t _ ht =>
    obtain ⟨x, hx, -, -, rfl⟩ := acceptDevice_next ht
    obtain ⟨p, hp⟩ := s.setFlags_of_pio hx false true
    exact ⟨p, [], _, s.draws, by rw [hp, List.append_nil]; rfl⟩
  | finish =>
    obtain ⟨p, hp⟩ := finishDevice_pio_frame s
    exact ⟨p, [], _, s.draws, by rw [hp, List.append_nil]; rfl⟩

theorem SioEffect.frame {i : Instr} {s t : State} (h : SioEffect i s t) :
    ∃ d es r n, t = { s with sio := d, trace := s.trace ++ es, reply := r, draws := n } := by
  cases h with
  | write c b =>
    obtain ⟨d, hd⟩ := s.sioWriteByte_frame c b
    exact ⟨d, [], _, s.draws, by rw [hd, List.append_nil]; rfl⟩
  | writeTwice c a b =>
    obtain ⟨d, hd⟩ := s.sioWriteByte_frame c a
    obtain ⟨e, he⟩ := (s.setSio d).sioWriteByte_frame c b
    exact ⟨e, [], _, s.draws, by rw [hd, he, List.append_nil]; rfl⟩
  | readControl c =>
    obtain ⟨d, r, n, hd⟩ := s.sioReadControl_frame c
    exact ⟨d, [], r, n, by rw [hd, List.append_nil]⟩
  | readData c =>
    obtain ⟨d, r, n, hd⟩ := s.sioReadData_frame c
    exact ⟨d, [], r, n, by rw [hd, List.append_nil]⟩
  | reply => exact ⟨s.sio, [], _, s.draws, by rw [List.append_nil]; rfl⟩
  | writeData | put | cts | dcd => exact ⟨_, [], _, s.draws, by rw [List.append_nil]; rfl⟩
  | rxPulses | txPulses | pulses | reset => exact ⟨_, _, _, s.draws, rfl⟩
  | accept t _ ht =>
    obtain ⟨x, hx, -, -, rfl⟩ := acceptDevice_next ht
    obtain ⟨d, hd⟩ := s.setFlags_of_sio hx false true
    exact ⟨d, [], _, s.draws, by rw [hd, List.append_nil]; rfl⟩
  | finish =>
    obtain ⟨d, hd⟩ := finishDevice_sio_frame s
    exact ⟨d, [], _, s.draws, by rw [hd, List.append_nil]; rfl⟩

/-- A chain operation changes the flags of one source at most, the mark and the reply. -/
theorem ChainEffect.cases {i : Instr} {s t : State} (h : ChainEffect i s t) :
    ∃ o r, t = { s with ctcOperated := o, reply := r } ∨
      (∃ x, s.accepted x = true ∧ t = { s.setFlags x (s.requested x) false with ctcOperated := o, reply := r }) ∨
      (accepts i = true ∧ ∃ x, s.chainRequest = some x.device ∧ s.requested x = true ∧ s.accepted x = false ∧
        t = { s.setFlags x false true with ctcOperated := o, reply := r }) := by
  have hset (u : State) (x : Source) (q a o : Bool) (r : Reply) :
      ({ u with ctcOperated := o, reply := r } : State).setFlags x q a =
        { u.setFlags x q a with ctcOperated := o, reply := r } := by
    cases x <;> rfl
  cases h with
  | request ends | idle ends =>
    obtain ⟨o, ho⟩ := s.markWalk_eq ends
    exact ⟨o, _, .inl (by rw [ho]; rfl)⟩
  | accept d ends t ha hd ht =>
    obtain ⟨x, hx, hreq, hacc, rfl⟩ := acceptDevice_next ht
    obtain ⟨o, ho⟩ := s.markWalk_eq ends
    refine ⟨o, .byte ((s.markWalk ends).vectorOf x), .inr (.inr ⟨ha, x, by rw [hd, hx],
      by simpa using hreq, by simpa using hacc, ?_⟩)⟩
    rw [ho]
    exact congrArg (State.returning · _) (hset s x false true o s.reply)
  | finish d ends hd =>
    obtain ⟨o, ho⟩ := s.markWalk_eq ends
    refine ⟨o, .unit, ?_⟩
    rcases finishDevice_cases d ((s.markWalk ends).returning .unit) with he | ⟨x, -, hx, he⟩ <;> rw [he]
    · exact .inl (by rw [ho]; rfl)
    · refine .inr (.inl ⟨x, by simpa using hx, ?_⟩)
      rw [State.requested_returning, State.requested_markWalk, ho]
      exact hset s x _ false o .unit

/-- Settles O8, from what the effects of the one device leave as it was. -/
theorem devicesShareNoState : Obligations.DevicesShareNoState := by
  unfold Obligations.DevicesShareNoState
  intro i d s t hd h
  rcases exec_cases h with ⟨hi, he⟩ | ⟨hi, he⟩ | ⟨hi, he⟩ | ⟨hi, -⟩ <;> rw [hi] at hd <;> cases hd
  · obtain ⟨c, o, es, r, rfl⟩ := he.frame
    exact ⟨fun hne => absurd rfl hne, fun _ => rfl, fun _ => rfl⟩
  · obtain ⟨p, es, r, n, rfl⟩ := he.frame
    exact ⟨fun _ => ⟨rfl, rfl⟩, fun hne => absurd rfl hne, fun _ => rfl⟩
  · obtain ⟨d, es, r, n, rfl⟩ := he.frame
    exact ⟨fun _ => ⟨rfl, rfl⟩, fun _ => rfl, fun hne => absurd rfl hne⟩

/-! ## The invariants (10_state.md R23, R27, R35) -/

/-- The flags of a source that requests or is in service can be set: with the PIO's latch set no port has such a
source. -/
theorem State.setFlags_inv (s : State) (x : Source) (r a : Bool) (h : s.Inv)
    (hx : s.requested x = true ∨ s.accepted x = true) : (s.setFlags x r a).Inv := by
  obtain ⟨hctc, hpio, hsio⟩ := h
  cases x with
  | ctc i =>
    obtain ⟨-, hch, -⟩ := (Ctc.ok_iff _).mp hctc
    exact ⟨Ctc.ok_setCh _ i _ hctc (hch i) rfl rfl, hpio, hsio⟩
  | pio p =>
    obtain ⟨hport, -, hreset⟩ := (Pio.ok_iff _).mp hpio
    refine ⟨hctc, Pio.ok_setPort_reset _ p _ hpio (hport p) rfl fun hr => ?_, hsio⟩
    obtain ⟨-, -, -, -, -, hreq, hacc, -⟩ := hreset hr p
    rcases hx with hx | hx
    · simp [State.requested, hreq] at hx
    · simp [State.accepted, hacc] at hx
  | sio c k =>
    exact ⟨hctc, hpio, Sio.ok_setCh _ c _ hsio (SioChannel.setFlags_ok _ k r a ((Sio.ok_iff _).mp hsio c))⟩

theorem State.inv_of_finishDevice (d : Device) (s : State) (h : s.Inv) : (finishDevice d s).Inv := by
  rcases finishDevice_cases d s with he | ⟨x, -, hx, he⟩ <;> rw [he]
  · exact h
  · exact s.setFlags_inv x _ false h (.inr hx)

theorem State.inv_of_acceptDevice {d : Device} {s t : State} (h : s.Inv) (ht : acceptDevice d s = .next t) : t.Inv := by
  obtain ⟨x, -, hreq, -, rfl⟩ := acceptDevice_next ht
  exact s.setFlags_inv x false true h (.inl hreq)

theorem ctcEdge_ok (i : CtcIx) (rising : Bool) (c : Ctc) (h : c.Ok) : (ctcEdge i rising c).1.Ok := by
  unfold ctcEdge
  split
  · exact trigger_ok cascadeDepth i c h
  · exact h

theorem CtcEffect.inv {i : Instr} {s t : State} (he : CtcEffect i s t) (h : s.Inv) : t.Inv := by
  cases he with
  | write k b => exact ⟨ctcWrite_ok k b s.ctc h.1, h.2⟩
  | reply => exact h
  | pulses n => exact ⟨repeatPulse_keeps ctcPulse_ok n s.ctc h.1, h.2⟩
  | edge k rising => exact ⟨ctcEdge_ok k rising s.ctc h.1, h.2⟩
  | externalPulses k n => exact ⟨repeatPulse_keeps (trigger_ok cascadeDepth k) n s.ctc h.1, h.2⟩
  | link a b _ hl => exact ⟨Ctc.link_ok s.ctc a b h.1 hl, h.2⟩
  | accept t _ ht => exact State.inv_of_acceptDevice (s := s.markCtc) h ht
  | finish => exact State.inv_of_finishDevice .ctc s h
  | reset powerOn => exact ⟨s.ctc.resetDevice_ok powerOn h.1, h.2⟩

theorem PioEffect.inv {i : Instr} {s t : State} (he : PioEffect i s t) (h : s.Inv) : t.Inv := by
  obtain ⟨hctc, hpio, hsio⟩ := h
  cases he with
  | write p b r hw => exact ⟨hctc, (pioWrite_ok p b s.pio hpio r hw).1, hsio⟩
  | writeData p v => exact ⟨hctc, pioWriteData_ok p v s.pio hpio, hsio⟩
  | readData p => exact ⟨hctc, pioReadData_ok p s.pio hpio, hsio⟩
  | put p v m strobe => exact ⟨hctc, pioPut_ok p v m strobe s.pio hpio, hsio⟩
  | fetch p strobe => exact ⟨hctc, pioFetch_ok p strobe s.pio hpio, hsio⟩
  | reply | draw => exact ⟨hctc, hpio, hsio⟩
  | accept t _ ht => exact State.inv_of_acceptDevice ⟨hctc, hpio, hsio⟩ ht
  | finish => exact State.inv_of_finishDevice .pio s ⟨hctc, hpio, hsio⟩
  | reset powerOn => exact ⟨hctc, s.pio.resetDevice_ok powerOn, hsio⟩

theorem SioEffect.inv {i : Instr} {s t : State} (he : SioEffect i s t) (h : s.Inv) : t.Inv := by
  have hframe := he.frame
  obtain ⟨hctc, hpio, hsio⟩ := h
  have hch (c : Side) := (Sio.ok_iff _).mp hsio c
  suffices hok : t.sio.Ok by
    obtain ⟨d, es, r, n, rfl⟩ := hframe
    exact ⟨hctc, hpio, hok⟩
  clear hframe
  cases he with
  | write c b => exact s.sioWriteByte_ok c b hsio
  | writeTwice c a b => exact (s.sioWriteByte c a).sioWriteByte_ok c b (s.sioWriteByte_ok c a hsio)
  | readControl c => exact s.sioReadControl_ok c hsio
  | readData c => exact s.sioReadData_ok c hsio
  | reply => exact hsio
  | writeData c v =>
    obtain ⟨h1, -, hrest⟩ := hch c
    exact Sio.ok_setCh _ c _ hsio ⟨h1, fun _ => rfl, hrest⟩
  | put c v => exact Sio.ok_setCh _ c _ hsio (SioChannel.putByte_ok _ v (hch c))
  | cts c | dcd c => exact Sio.ok_setCh _ c _ hsio (hch c)
  | rxPulses c n => exact repeatPulse_keeps (sioRxPulse_ok c) n s.sio hsio
  | txPulses c n => exact repeatPulse_keeps (sioTxPulse_ok c) n s.sio hsio
  | pulses n => exact repeatPulse_keeps (sioPulse_ok s.wiring) n s.sio hsio
  | accept t _ ht => exact (State.inv_of_acceptDevice ⟨hctc, hpio, hsio⟩ ht).2.2
  | finish => exact (State.inv_of_finishDevice .sio s ⟨hctc, hpio, hsio⟩).2.2
  | reset powerOn => exact s.sio.resetDevice_ok powerOn

theorem ChainEffect.inv {i : Instr} {s t : State} (he : ChainEffect i s t) (h : s.Inv) : t.Inv := by
  obtain ⟨o, r, rfl | ⟨x, hx, rfl⟩ | ⟨-, x, -, hx, -, rfl⟩⟩ := he.cases
  · exact h
  · exact s.setFlags_inv x _ false h (.inr hx)
  · exact s.setFlags_inv x false true h (.inl hx)

/-- Settles O7: a step is one instruction on a state with the same devices, and every effect of an instruction keeps the
invariants of the three devices. -/
theorem stepKeepsInvariants : Obligations.StepKeepsInvariants := by
  unfold Obligations.StepKeepsInvariants
  intro s t h hstep
  rcases step_next_cases s t hstep with rfl | ⟨i, rest, hi⟩
  · exact h
  · have h' : (s.setInput rest).Inv := h
    rcases exec_cases hi with ⟨-, he⟩ | ⟨-, he⟩ | ⟨-, he⟩ | ⟨-, he⟩
    · exact he.inv h'
    · exact he.inv h'
    · exact he.inv h'
    · exact he.inv h'

end Sys2Proof.Machine

/-! PROOFS. The interrupt sources through every instruction (60_exceptions.md R271, R272): what each device's own steps
do to the requested and the accepted flags. -/

namespace Sys2Proof.Machine

/-! ## Counting in the CTC -/

/-- A relation of a channel before and after that every step of counting respects: a start, a count and a reload
(41_ctc.md R149 to R151). -/
structure CountingRelation (P : CtcChannel → CtcChannel → Prop) : Prop where
  refl : ∀ c, P c c
  trans : ∀ {c d e}, P c d → P d e → P c e
  start : ∀ c, c.counterInit ≠ none → P c c.start
  count : ∀ (c : CtcChannel) n, P c { c with counter := n }
  reload : ∀ c, P c c.reloaded

/-- A relation holds of every channel before and after. -/
def Ctc.Each (P : CtcChannel → CtcChannel → Prop) (c d : Ctc) : Prop := ∀ k, P (c.ch k) (d.ch k)

theorem Ctc.each_setCh {P : CtcChannel → CtcChannel → Prop} (hrefl : ∀ c, P c c) {c : Ctc} {i : CtcIx} {v : CtcChannel}
    (h : P (c.ch i) v) : c.Each P (c.setCh i v) := by
  intro k
  rw [Ctc.ch_setCh]
  split
  · next hk => exact hk ▸ h
  · exact hrefl _

section
variable {P : CtcChannel → CtcChannel → Prop} (hP : CountingRelation P)
include hP

theorem CountingRelation.each_trans {c d e : Ctc} (h : c.Each P d) (k : d.Each P e) : c.Each P e :=
  fun i => hP.trans (h i) (k i)

theorem CountingRelation.decrement {cascade : CtcIx → Ctc → Ctc × List Event} (hk : ∀ j c, Ctc.Each P c (cascade j c).1)
    (i : CtcIx) (c : Ctc) : c.Each P (decrement cascade i c).1 := by
  have hreload : c.Each P (c.setCh i (c.ch i).reloaded) := Ctc.each_setCh hP.refl (hP.reload _)
  rcases decrement_spec cascade i c with ⟨-, he⟩ | ⟨-, he⟩ <;> rw [he]
  · exact Ctc.each_setCh hP.refl (hP.count _ _)
  · rcases zeroCrossing_spec cascade i c with ⟨-, hz⟩ | ⟨j, -, hz⟩ <;> rw [hz]
    · exact hreload
    · exact hP.each_trans hreload (hk j _)

theorem CountingRelation.trigger (n : Nat) (j : CtcIx) (c : Ctc) : c.Each P (trigger n j c).1 := by
  induction n generalizing j c with
  | zero => exact fun _ => hP.refl _
  | succ n ih =>
    have hstart (hl : (c.ch j).counterInit ≠ none) : c.Each P (c.setCh j (c.ch j).start) :=
      Ctc.each_setCh hP.refl (hP.start _ hl)
    rcases trigger_spec n j c with ⟨-, he⟩ | ⟨hl, -, he⟩ | ⟨hl, -, he⟩ <;> rw [he]
    · exact fun _ => hP.refl _
    · exact hstart hl
    · exact hP.each_trans (hstart hl) (hP.decrement ih j _)

end

/-- What counting does to a channel's links and interrupt flags: only its request may rise, and only if it is enabled
(41_ctc.md R150). -/
structure CtcChannel.Counts (c d : CtcChannel) : Prop where
  links : d.cascadeTo = c.cascadeTo ∧ d.cascadeFrom = c.cascadeFrom
  enabled : d.interruptEnabled = c.interruptEnabled
  accepted : d.interruptAccepted = c.interruptAccepted
  requested : d.interruptRequested = true → c.interruptRequested = true ∨ c.interruptEnabled = true

theorem CtcChannel.Counts.refl (c : CtcChannel) : c.Counts c := ⟨⟨rfl, rfl⟩, rfl, rfl, .inl⟩

theorem CtcChannel.Counts.trans {c d e : CtcChannel} (h : c.Counts d) (k : d.Counts e) : c.Counts e where
  links := ⟨k.links.1.trans h.links.1, k.links.2.trans h.links.2⟩
  enabled := k.enabled.trans h.enabled
  accepted := k.accepted.trans h.accepted
  requested hreq := by
    rcases k.requested hreq with hd | hd
    · exact h.requested hd
    · exact .inr (h.enabled ▸ hd)

theorem CtcChannel.counts_relation : CountingRelation CtcChannel.Counts where
  refl := .refl
  trans := .trans
  start c _ := by
    rw [CtcChannel.start_spec]
    exact ⟨⟨rfl, rfl⟩, rfl, rfl, .inl⟩
  count _ _ := ⟨⟨rfl, rfl⟩, rfl, rfl, .inl⟩
  reload _ := ⟨⟨rfl, rfl⟩, rfl, rfl, fun h => Bool.or_eq_true_iff.mp h⟩

/-- Every channel counts. -/
def Ctc.Counts (c d : Ctc) : Prop := c.Each CtcChannel.Counts d

theorem Ctc.Counts.refl (c : Ctc) : c.Counts c := fun k => .refl (c.ch k)

theorem Ctc.Counts.trans {c d e : Ctc} (h : c.Counts d) (k : d.Counts e) : c.Counts e := fun i => (h i).trans (k i)

theorem Ctc.counts_setCh {c : Ctc} {i : CtcIx} {v : CtcChannel} (h : (c.ch i).Counts v) : c.Counts (c.setCh i v) :=
  Ctc.each_setCh .refl h

theorem trigger_counts (n : Nat) (j : CtcIx) (c : Ctc) : c.Counts (trigger n j c).1 :=
  CtcChannel.counts_relation.trigger n j c

theorem decrement_counts (n : Nat) (i : CtcIx) (c : Ctc) : c.Counts (decrement (trigger n) i c).1 :=
  CtcChannel.counts_relation.decrement (trigger_counts n) i c

theorem channelPulse_counts (i : CtcIx) (c : Ctc) : c.Counts (channelPulse i c).1 := by
  rcases channelPulse_spec i c with ⟨v, -, he⟩ | ⟨-, -, -, -, he⟩ | ⟨-, -, -, -, he⟩ | ⟨-, -, he⟩ <;> rw [he]
  · exact Ctc.counts_setCh ⟨⟨rfl, rfl⟩, rfl, rfl, .inl⟩
  · exact Ctc.counts_setCh ⟨⟨rfl, rfl⟩, rfl, rfl, .inl⟩
  · have hprescaler : c.Counts (c.setCh i { c.ch i with prescaler := 0 }) :=
      Ctc.counts_setCh ⟨⟨rfl, rfl⟩, rfl, rfl, .inl⟩
    exact hprescaler.trans (decrement_counts _ i _)
  · exact .refl c

/-- A step that counts, repeated, counts. -/
theorem repeatPulse_counts {f : Ctc → Ctc × List Event} (hf : ∀ c : Ctc, c.Counts (f c).1) (n : Nat) (c : Ctc) :
    c.Counts (repeatPulse f n c).1 :=
  repeatPulse_keeps (P := c.Counts) (fun d hd => hd.trans (hf d)) n c (.refl c)

theorem ctcPulse_counts (c : Ctc) : c.Counts (ctcPulse c).1 :=
  have hpulse (i : CtcIx) (d : Ctc) (hd : c.Counts d) : c.Counts (channelPulse i d).1 :=
    hd.trans (channelPulse_counts i d)
  andThen_keeps (P := c.Counts) (hpulse .c0)
    (andThen_keeps (P := c.Counts) (hpulse .c1) (andThen_keeps (P := c.Counts) (hpulse .c2) (hpulse .c3))) c (.refl c)

theorem ctcEdge_counts (i : CtcIx) (rising : Bool) (c : Ctc) : c.Counts (ctcEdge i rising c).1 := by
  unfold ctcEdge
  split
  · exact trigger_counts cascadeDepth i c
  · exact .refl c

/-! ## Data through the PIO -/

/-- What data and strobes do to a port's interrupt flags: only its request changes, it rises only if the port is enabled
and never drops (42_pio.md R188). -/
structure PioPort.Moves (q r : PioPort) : Prop where
  enabled : r.intEnabled = q.intEnabled
  accepted : r.intAccepted = q.intAccepted
  requested : r.intRequested = true → q.intRequested = true ∨ q.intEnabled = true
  kept : q.intRequested = true → r.intRequested = true

theorem PioPort.Moves.refl (q : PioPort) : q.Moves q := ⟨rfl, rfl, .inl, id⟩

theorem PioPort.Moves.trans {q r u : PioPort} (h : q.Moves r) (k : r.Moves u) : q.Moves u where
  enabled := k.enabled.trans h.enabled
  accepted := k.accepted.trans h.accepted
  requested hreq := by
    rcases k.requested hreq with hr | hr
    · exact h.requested hr
    · exact .inr (h.enabled ▸ hr)
  kept hreq := k.kept (h.kept hreq)

/-- Both ports move data. -/
def Pio.Moves (d e : Pio) : Prop := ∀ p, (d.port p).Moves (e.port p)

theorem Pio.Moves.refl (d : Pio) : d.Moves d := fun p => .refl (d.port p)

theorem Pio.Moves.trans {d e u : Pio} (h : d.Moves e) (k : e.Moves u) : d.Moves u := fun p => (h p).trans (k p)

theorem Pio.port_modPort (d : Pio) (p q : Side) (f : PioPort → PioPort) :
    (d.modPort p f).port q = if q = p then f (d.port p) else d.port q :=
  d.port_setPort p q _

theorem Pio.moves_modPort {d e : Pio} {p : Side} {f : PioPort → PioPort} (h : d.Moves e)
    (hf : ∀ q : PioPort, q.Moves (f q)) :
    d.Moves (e.modPort p f) := by
  intro q
  rw [Pio.port_modPort]
  split
  · next hq => exact hq ▸ (h p).trans (hf _)
  · exact h q

theorem PioPort.requestInterrupt_moves (q : PioPort) : q.Moves q.requestInterrupt :=
  ⟨rfl, rfl, fun h => Bool.or_eq_true_iff.mp h, fun h => Bool.or_eq_true_iff.mpr (.inl h)⟩

theorem PioPort.checkBitIO_moves (q : PioPort) : q.Moves q.checkBitIO where
  enabled := rfl
  accepted := rfl
  requested h := by
    rcases Bool.or_eq_true_iff.mp h with h | h
    · exact .inl h
    · exact .inr (Bool.and_eq_true_iff.mp h).2
  kept h := Bool.or_eq_true_iff.mpr (.inl h)

theorem pioWriteData_moves (p : Side) (v : Byte) (d : Pio) : d.Moves (pioWriteData p v d).1 := by
  have hstore : d.Moves (d.modPort p fun q => { q with outputRegister := v }) :=
    Pio.moves_modPort (.refl d) fun _ => ⟨rfl, rfl, .inl, id⟩
  unfold pioWriteData
  dsimp only
  split
  · exact hstore
  · split
    · exact Pio.moves_modPort hstore fun _ => ⟨rfl, rfl, .inl, id⟩
    · exact Pio.moves_modPort hstore fun _ => ⟨rfl, rfl, .inl, id⟩
    · exact Pio.moves_modPort hstore PioPort.checkBitIO_moves
    · exact hstore

theorem pioReadData_moves (p : Side) (d : Pio) : d.Moves (pioReadData p d).1 := by
  have hmask (q : Side) : d.Moves (d.modPort q fun r => { r with valueMask := 0x00 }) :=
    Pio.moves_modPort (.refl d) fun _ => ⟨rfl, rfl, .inl, id⟩
  unfold pioReadData
  dsimp only
  split
  · exact .refl d
  · split
    · exact hmask p
    · exact Pio.moves_modPort (hmask p) fun _ => ⟨rfl, rfl, .inl, id⟩
  · split
    · exact hmask .a
    · exact Pio.moves_modPort (hmask .a) fun _ => ⟨rfl, rfl, .inl, id⟩
  · exact hmask p

theorem pioPut_moves (p : Side) (v m : Byte) (strobe : Bool) (d : Pio) : d.Moves (pioPut p v m strobe d) := by
  have hput : d.Moves (d.modPort p fun q =>
      { q with inputRegister := (q.inputRegister &&& ~~~m) ||| (v &&& m), valueMask := q.valueMask ||| m }) :=
    Pio.moves_modPort (.refl d) fun _ => ⟨rfl, rfl, .inl, id⟩
  have hready (q : PioPort) : q.Moves { q with ready := true } := ⟨rfl, rfl, .inl, id⟩
  unfold pioPut
  dsimp only
  split
  · exact hput
  · split
    · split
      · exact hput
      · refine Pio.moves_modPort hput fun q => ?_
        cases strobe
        · exact hready q
        · exact (hready q).trans (PioPort.requestInterrupt_moves _)
    · refine Pio.moves_modPort (Pio.moves_modPort hput hready) fun q => ?_
      cases strobe
      · exact .refl q
      · exact q.requestInterrupt_moves
    · exact Pio.moves_modPort hput PioPort.checkBitIO_moves
    · exact hput

theorem pioFetch_moves (p : Side) (strobe : Bool) (d : Pio) : d.Moves (pioFetch p strobe d) := by
  have hfetch (q : PioPort) : q.Moves (PioPort.requestInterrupt { q with ready := false }) :=
    PioPort.Moves.trans (r := { q with ready := false }) ⟨rfl, rfl, .inl, id⟩ (PioPort.requestInterrupt_moves _)
  unfold pioFetch
  split
  · exact .refl d
  · split
    · split
      · exact .refl d
      · exact Pio.moves_modPort (.refl d) hfetch
    · exact Pio.moves_modPort (.refl d) hfetch
    · exact .refl d
    · exact .refl d

/-! ## Control writes to the PIO -/

/-- The interrupt flags of both ports are as they were. -/
def Pio.SameFlags (d e : Pio) : Prop :=
  ∀ p, (e.port p).intRequested = (d.port p).intRequested ∧ (e.port p).intAccepted = (d.port p).intAccepted

theorem Pio.sameFlags_modPort {d e : Pio} {p : Side} {f : PioPort → PioPort} (h : d.SameFlags e)
    (hf : ∀ q : PioPort, (f q).intRequested = q.intRequested ∧ (f q).intAccepted = q.intAccepted) :
    d.SameFlags (e.modPort p f) := by
  intro q
  rw [Pio.port_modPort]
  split
  · next hq =>
      subst hq
      exact ⟨(hf _).1.trans (h q).1, (hf _).2.trans (h q).2⟩
  · exact h q

theorem Pio.writeMode_sameFlags {d e e' : Pio} {p : Side} {m : PioMode} (h : d.SameFlags e)
    (he : e.writeMode p m = some e') : d.SameFlags e' ∧ e'.resetState = e.resetState := by
  rcases e.writeMode_spec p m with ⟨-, -, hn⟩ | ⟨-, -, hs⟩ | ⟨-, hs⟩
  · simp [hn] at he
  · rw [hs] at he
    cases he
    exact ⟨fun q => by cases q; exacts [h .a, h .b], rfl⟩
  · rw [hs] at he
    cases he
    refine ⟨fun q => ?_, rfl⟩
    cases q with
    | a => exact h .a
    | b =>
      simp only [Pio.port]
      split <;> exact h .b

/-- Every control write clears the latch and keeps the interrupt flags, or is refused (42_pio.md R170, R187). -/
theorem pioWrite_sameFlags {p : Side} {b : Byte} {d : Pio} {r : Pio × List Event} (hr : pioWrite p b d = some r) :
    d.SameFlags r.1 ∧ r.1.resetState = false := by
  have hclear : d.SameFlags { d with resetState := false } := fun q => by cases q <;> exact ⟨rfl, rfl⟩
  rw [pioWrite_eq] at hr
  split at hr
  case h_4 m _ _ =>
    obtain ⟨e', he, rfl⟩ := Option.map_eq_some_iff.mp hr
    exact Pio.writeMode_sameFlags hclear he
  case h_7 | h_8 =>
    cases hr
    exact ⟨hclear, rfl⟩
  all_goals
    cases hr
    exact ⟨Pio.sameFlags_modPort hclear fun _ => ⟨rfl, rfl⟩, Pio.modPort_resetState _ p _⟩

/-! ## Shifting in the SIO -/

/-- The enable of an SIO source, from its channel's `wr[1]` (60_exceptions.md R271). -/
def SioChannel.enabled (q : SioChannel) : SioKind → Bool
  | .rx => q.wr.wr1.extractLsb' 3 2 != 0
  | .tx => q.wr.wr1.getLsbD 1
  | .ext => q.wr.wr1.getLsbD 0

theorem State.enabled_sio (s : State) (c : Side) (k : SioKind) : s.enabled (.sio c k) = (s.sio.ch c).enabled k := by
  cases k <;> rfl

/-- What the shifters and the modem lines do to a channel's interrupt flags: a request rises only if its source is
enabled. -/
structure SioChannel.Shifts (q r : SioChannel) : Prop where
  wr : r.wr = q.wr
  accepted : ∀ k, r.accepted k = q.accepted k
  requested : ∀ k, r.requested k = true → q.requested k = true ∨ q.enabled k = true

theorem SioChannel.Shifts.refl (q : SioChannel) : q.Shifts q := ⟨rfl, fun _ => rfl, fun _ => .inl⟩

theorem SioChannel.enabled_congr {q r : SioChannel} (h : r.wr = q.wr) (k : SioKind) : r.enabled k = q.enabled k := by
  cases k <;> simp only [SioChannel.enabled, h]

theorem SioChannel.Shifts.trans {q r u : SioChannel} (h : q.Shifts r) (g : r.Shifts u) : q.Shifts u where
  wr := g.wr.trans h.wr
  accepted k := (g.accepted k).trans (h.accepted k)
  requested k hreq := by
    rcases g.requested k hreq with hr | hr
    · exact h.requested k hr
    · exact .inr ((SioChannel.enabled_congr h.wr k).symm.trans hr)

/-- A change that leaves the write registers and the flags alone. -/
theorem SioChannel.Shifts.of_same {q r : SioChannel} (hwr : r.wr = q.wr) (hacc : ∀ k, r.accepted k = q.accepted k)
    (hreq : ∀ k, r.requested k = q.requested k) : q.Shifts r :=
  ⟨hwr, hacc, fun k h => .inl (hreq k ▸ h)⟩

theorem SioChannel.receiveInterrupt_shifts (q : SioChannel) : q.Shifts q.receiveInterrupt := by
  unfold SioChannel.receiveInterrupt
  dsimp only
  split
  · exact .refl q
  · next hmode =>
    have hrx : q.enabled .rx = true := bne_iff_ne.mpr hmode
    split
    · refine ⟨rfl, fun k => by cases k <;> rfl, fun k h => ?_⟩
      cases k with
      | rx => exact .inr hrx
      | tx | ext => exact .inl h
    · refine ⟨rfl, fun k => by cases k <;> rfl, fun k h => ?_⟩
      cases k with
      | rx => exact .inr hrx
      | tx | ext => exact .inl h

theorem SioChannel.receiveComplete_shifts (q : SioChannel) : q.Shifts q.receiveComplete := by
  refine SioChannel.Shifts.trans ?_ (SioChannel.receiveInterrupt_shifts _)
  split <;> exact .of_same rfl (fun k => by cases k <;> rfl) (fun k => by cases k <;> rfl)

/-- The counts of the shifters are no interrupt flags. -/
theorem SioChannel.shifts_withCounts (q : SioChannel) (txBits txAcc rxBits rxAcc : Nat) :
    q.Shifts { q with txBitsRemaining := txBits, txDivAcc := txAcc, rxBitsRemaining := rxBits, rxDivAcc := rxAcc } :=
  .of_same rfl (fun k => by cases k <;> rfl) (fun k => by cases k <;> rfl)

theorem SioChannel.rxPulse_shifts (q : SioChannel) : q.Shifts q.rxPulse := by
  rcases q.rxPulse_spec with ⟨-, he⟩ | ⟨-, -, he⟩ | ⟨-, -, he⟩ | ⟨-, -, he⟩ <;> rw [he]
  · exact .refl q
  · exact q.shifts_withCounts _ _ _ _
  · exact q.shifts_withCounts _ _ _ _
  · exact (q.shifts_withCounts _ _ _ _).trans (SioChannel.receiveComplete_shifts _)

theorem SioChannel.startFrame_shifts (q : SioChannel) : q.Shifts q.startFrame := by
  rw [SioChannel.startFrame_spec]
  exact q.shifts_withCounts _ _ _ _

theorem SioChannel.transmitComplete_shifts (q : SioChannel) : q.Shifts q.transmitComplete := by
  refine ⟨rfl, fun k => by cases k <;> rfl, fun k h => ?_⟩
  cases k with
  | tx => exact Bool.or_eq_true_iff.mp h
  | rx | ext => exact .inl h

theorem SioChannel.txPulse_shifts (c : Side) (q : SioChannel) : q.Shifts (q.txPulse c).1 := by
  have hstart := q.startFrame_shifts
  have hcounts (bits acc : Nat) :=
    hstart.trans (SioChannel.shifts_withCounts q.startFrame bits acc q.startFrame.rxBitsRemaining
    q.startFrame.rxDivAcc)
  rcases q.txPulse_spec c with ⟨-, he⟩ | ⟨-, -, -, he⟩ | ⟨-, -, -, -, he⟩ | ⟨-, -, -, -, he⟩ <;> rw [he]
  · exact .refl q
  · exact hcounts _ _
  · exact hcounts _ _
  · exact (hcounts _ _).trans (SioChannel.transmitComplete_shifts _)

/-- Both channels shift. -/
def Sio.Shifts (d e : Sio) : Prop := ∀ c, (d.ch c).Shifts (e.ch c)

theorem Sio.Shifts.refl (d : Sio) : d.Shifts d := fun c => .refl (d.ch c)

theorem Sio.Shifts.trans {d e u : Sio} (h : d.Shifts e) (g : e.Shifts u) : d.Shifts u := fun c => (h c).trans (g c)

theorem Sio.shifts_setCh {d : Sio} {c : Side} {v : SioChannel} (h : (d.ch c).Shifts v) : d.Shifts (d.setCh c v) := by
  intro e
  rw [Sio.ch_setCh]
  split
  · next he => exact he ▸ h
  · exact .refl _

theorem sioRxPulse_shifts (c : Side) (d : Sio) : d.Shifts (sioRxPulse c d).1 :=
  Sio.shifts_setCh (SioChannel.rxPulse_shifts _)

theorem sioTxPulse_shifts (c : Side) (d : Sio) : d.Shifts (sioTxPulse c d).1 :=
  Sio.shifts_setCh (SioChannel.txPulse_shifts c _)

theorem onSystemClock_shifts (src : ClockSource) {f : Sio → Sio × List Event} (hf : ∀ d : Sio, d.Shifts (f d).1)
    (d : Sio) :
    d.Shifts (onSystemClock src f d).1 := by
  cases src
  · exact hf d
  · exact .refl d

theorem sioPulse_shifts (w : Wiring) (d : Sio) : d.Shifts (sioPulse w d).1 :=
  have hpulse {src : ClockSource} {f : Sio → Sio × List Event} (hf : ∀ d : Sio, d.Shifts (f d).1)
      (e : Sio) (he : d.Shifts e) :
      d.Shifts (onSystemClock src f e).1 := he.trans (onSystemClock_shifts src hf e)
  andThen_keeps (P := d.Shifts) (hpulse (sioRxPulse_shifts .a))
    (andThen_keeps (P := d.Shifts) (hpulse (sioTxPulse_shifts .a))
      (andThen_keeps (P := d.Shifts) (hpulse (sioRxPulse_shifts .b)) (hpulse (sioTxPulse_shifts .b)))) d (.refl d)

theorem repeatPulse_shifts {f : Sio → Sio × List Event} (hf : ∀ d : Sio, d.Shifts (f d).1) (n : Nat) (d : Sio) :
    d.Shifts (repeatPulse f n d).1 :=
  repeatPulse_keeps (P := d.Shifts) (fun e he => he.trans (hf e)) n d (.refl d)

theorem SioChannel.modemChange_shifts (q : SioChannel) (old : Option Bool) (level : Bool) :
    q.Shifts (q.modemChange old level) := by
  refine ⟨rfl, fun k => by cases k <;> rfl, fun k h => ?_⟩
  cases k with
  | ext =>
    rcases Bool.or_eq_true_iff.mp h with h | h
    · exact .inl h
    · exact .inr (Bool.and_eq_true_iff.mp h).2
  | rx | tx => exact .inl h

end Sys2Proof.Machine

/-! PROOFS. What no instruction does to the interrupt sources: each is quiet for them or accepts one (60_exceptions.md
R271, R272). -/

namespace Sys2Proof.Machine

/-! ## Effects that raise no flag -/

/-- No flag of a source rises. -/
def State.Calm (s t : State) : Prop :=
  ∀ x, (t.requested x = true → s.requested x = true) ∧ (t.accepted x = true → s.accepted x = true)

theorem State.Calm.refl (s : State) : s.Calm s := fun _ => ⟨id, id⟩

theorem State.Calm.trans {s t u : State} (h : s.Calm t) (k : t.Calm u) : s.Calm u :=
  fun x => ⟨(h x).1 ∘ (k x).1, (h x).2 ∘ (k x).2⟩

/-- The flags of a source are read from the three devices alone. -/
theorem State.flags_congr {s t : State} (hc : t.ctc = s.ctc) (hp : t.pio = s.pio) (hs : t.sio = s.sio) (x : Source) :
    t.requested x = s.requested x ∧ t.accepted x = s.accepted x := by
  cases x <;> simp only [State.requested, State.accepted, hc, hp, hs, and_self]

theorem State.calm_of_same {s t : State} (hc : t.ctc = s.ctc) (hp : t.pio = s.pio) (hs : t.sio = s.sio) : s.Calm t := by
  intro x
  obtain ⟨hreq, hacc⟩ := State.flags_congr hc hp hs x
  exact ⟨fun h => hreq ▸ h, fun h => hacc ▸ h⟩

theorem State.calm_returning (s : State) (r : Reply) : s.Calm (s.returning r) := State.calm_of_same rfl rfl rfl

/-- Releasing a source raises nothing. -/
theorem State.calm_release (s : State) (x : Source) : s.Calm (s.setFlags x (s.requested x) false) := by
  intro y
  rw [State.setFlags_requested, State.setFlags_accepted]
  split
  · next hy => exact ⟨fun h => hy ▸ h, nofun⟩
  · exact ⟨id, id⟩

theorem finishDevice_calm (d : Device) (s : State) : s.Calm (finishDevice d s) := by
  rcases finishDevice_cases d s with he | ⟨x, -, -, he⟩ <;> rw [he]
  · exact .refl s
  · exact s.calm_release x

/-- A change of one SIO channel that raises none of its flags raises none. -/
theorem State.calm_modSio (s : State) (c : Side) (f : SioChannel → SioChannel)
    (h : ∀ (q : SioChannel) k, ((f q).requested k = true → q.requested k = true) ∧
      ((f q).accepted k = true → q.accepted k = true)) : s.Calm (s.modSio c f) := by
  intro x
  rcases x with i | p | ⟨e, k⟩
  · exact ⟨id, id⟩
  · exact ⟨id, id⟩
  · simp only [State.requested, State.accepted, State.modSio_sio, Sio.ch_setCh]
    split
    · next he => exact he ▸ h _ k
    · exact ⟨id, id⟩

theorem SioChannel.resetChannel_flags (q : SioChannel) (powerOn : Bool) (k : SioKind) :
    (q.resetChannel powerOn).requested k = false ∧ (q.resetChannel powerOn).accepted k = false := by
  cases powerOn <;> cases k <;> exact ⟨rfl, rfl⟩

theorem sioCommand_calm (c : Side) (cmd : SioCommand) (s : State) : s.Calm (sioCommand c cmd s) := by
  cases cmd with
  | null | cmd1None => exact .refl s
  | resetExtStatus | enableFirstChar | resetTxInt | errorReset =>
    refine s.calm_modSio c _ fun q k => ?_
    cases k <;> exact ⟨by simp [SioChannel.requested], id⟩
  | channelReset =>
    refine s.calm_modSio c _ fun q k => ?_
    simp only [q.resetChannel_flags, Bool.false_eq_true, false_imp_iff, and_self]
  | reti =>
    cases c with
    | a => exact finishDevice_calm .sio s
    | b => exact .refl s

theorem State.sioWriteByte_calm (s : State) (c : Side) (b : Byte) : s.Calm (s.sioWriteByte c b) := by
  rcases s.sioWriteByte_spec c b with ⟨-, he⟩ | ⟨-, he⟩ <;> rw [he]
  · refine State.Calm.trans (s.calm_modSio c _ fun q k => ?_) (sioCommand_calm c _ _)
    cases k <;> exact ⟨id, id⟩
  · refine s.calm_modSio c _ fun q k => ?_
    cases k <;> exact ⟨id, id⟩

theorem State.sioReadControl_calm (s : State) (c : Side) : s.Calm (s.sioReadControl c) := by
  obtain ⟨d, r, n, he⟩ := s.sioReadControl_frame c
  obtain ⟨hd, -⟩ := s.sioReadControl_spec c
  rw [he] at hd
  obtain rfl : d = _ := hd
  rw [he]
  refine s.calm_modSio c (fun q => { q with wr := q.wr.clearPointer }) fun q k => ?_
  cases k <;> exact ⟨id, id⟩

theorem State.sioReadData_calm (s : State) (c : Side) : s.Calm (s.sioReadData c) := by
  rcases s.sioReadData_spec c with ⟨-, he⟩ | ⟨-, he⟩ <;> rw [he]
  · exact .refl s
  · refine State.Calm.trans ?_ (State.calm_returning _ _)
    refine s.calm_modSio c _ fun q k => ?_
    cases k <;> exact ⟨id, id⟩

/-! ## Every effect but an acceptance: no service begins, and a request rises only if enabled -/

/-- No source goes in service, and a request rises only at an enabled source (60_exceptions.md R271, R272). -/
def State.Quiet (s t : State) : Prop :=
  ∀ x, (t.accepted x = true → s.accepted x = true) ∧
    (t.requested x = true → s.requested x = true ∨ s.enabled x = true)

theorem State.Calm.quiet {s t : State} (h : s.Calm t) : s.Quiet t := fun x => ⟨(h x).2, fun hr => .inl ((h x).1 hr)⟩

theorem State.quiet_of_counts (s : State) {c : Ctc} (es : List Event) (h : s.ctc.Counts c) :
    s.Quiet (s.ctcRun (c, es)) := by
  intro x
  rcases x with k | p | ⟨e, k⟩
  · exact ⟨(h k).accepted.symm.trans, (h k).requested⟩
  · exact ⟨id, .inl⟩
  · exact ⟨id, .inl⟩

theorem State.quiet_of_moves (s : State) {d : Pio} (es : List Event) (r : Reply) (h : s.pio.Moves d) :
    s.Quiet (s.pioRun (d, es) r) := by
  intro x
  rcases x with k | p | ⟨e, k⟩
  · exact ⟨id, .inl⟩
  · exact ⟨(h p).accepted.symm.trans, (h p).requested⟩
  · exact ⟨id, .inl⟩

/-- A state whose SIO has shifted, the other devices as they were. -/
theorem State.quiet_of_shifts {s t : State} (hc : t.ctc = s.ctc) (hp : t.pio = s.pio) (h : s.sio.Shifts t.sio) :
    s.Quiet t := by
  intro x
  rcases x with k | p | ⟨e, k⟩
  · simp only [State.accepted, State.requested, hc]; exact ⟨id, .inl⟩
  · simp only [State.accepted, State.requested, hp]; exact ⟨id, .inl⟩
  · rw [State.enabled_sio]
    exact ⟨((h e).accepted k).symm.trans, (h e).requested k⟩

theorem State.quiet_modSio (s : State) (c : Side) {f : SioChannel → SioChannel} (r : Reply)
    (hf : ∀ q : SioChannel, q.Shifts (f q)) : s.Quiet ((s.modSio c f).returning r) :=
  State.quiet_of_shifts rfl rfl (Sio.shifts_setCh (hf _))

/-- From `s` to `t` the pending source `x` goes in service, and no other flag changes (40_contracts.md R126). -/
structure Accepts (s t : State) (x : Source) : Prop where
  wasRequested : s.requested x = true
  wasFree : s.accepted x = false
  requested : ∀ y, t.requested y = if y = x then false else s.requested y
  accepted : ∀ y, t.accepted y = if y = x then true else s.accepted y

theorem accepts_setFlags {s u t : State} {x : Source} (hreq : s.requested x = true) (hacc : s.accepted x = false)
    (hu : ∀ y, u.requested y = s.requested y ∧ u.accepted y = s.accepted y)
    (ht : ∀ y, t.requested y = (u.setFlags x false true).requested y ∧
      t.accepted y = (u.setFlags x false true).accepted y) :
    Accepts s t x where
  wasRequested := hreq
  wasFree := hacc
  requested y := by rw [(ht y).1, State.setFlags_requested, (hu y).1]
  accepted y := by rw [(ht y).2, State.setFlags_accepted, (hu y).2]

theorem accepts_of_acceptDevice {d : Device} {s u t : State} (h : acceptDevice d u = .next t)
    (hu : ∀ y, u.requested y = s.requested y ∧ u.accepted y = s.accepted y) : ∃ x, x.device = d ∧ Accepts s t x := by
  obtain ⟨x, hx, hreq, hacc, rfl⟩ := acceptDevice_next h
  exact ⟨x, hx, accepts_setFlags ((hu x).1 ▸ hreq) ((hu x).2 ▸ hacc) hu fun y =>
    ⟨State.requested_returning _ _ y, State.accepted_returning _ _ y⟩⟩

theorem CtcEffect.quiet_or_accepts {i : Instr} {s t : State} (h : CtcEffect i s t) :
    s.Quiet t ∨ (accepts i = true ∧ ∃ x, Accepts s t x) := by
  have hsetCh (k : CtcIx) (v : CtcChannel) (hr : v.interruptRequested = true → (s.ctc.ch k).interruptRequested = true)
      (ha : v.interruptAccepted = true → (s.ctc.ch k).interruptAccepted = true) :
      s.Calm (s.setCtc (s.ctc.setCh k v)) := by
    rintro (j | p | ⟨e, j⟩)
    · simp only [State.requested, State.accepted, State.setCtc_ctc, Ctc.ch_setCh]
      split
      · next hj => exact hj ▸ ⟨hr, ha⟩
      · exact ⟨id, id⟩
    · exact ⟨id, id⟩
    · exact ⟨id, id⟩
  cases h with
  | write k b =>
    refine .inl (State.Calm.quiet ?_)
    have hcalm : s.Calm (s.setCtc (ctcWrite k b s.ctc)) := by
      rcases ctcWrite_spec k b s.ctc with ⟨-, he⟩ | ⟨-, -, he⟩ | ⟨-, -, w, -, he⟩ <;> rw [he]
      · exact hsetCh k _ id id
      · intro x
        rcases x with j | p | ⟨e, j⟩
        · simp only [State.requested, State.accepted, State.setCtc_ctc, Ctc.ch_withVector, imp_self, and_self]
        · exact ⟨id, id⟩
        · exact ⟨id, id⟩
      · exact hsetCh k _ (fun hr => (Bool.and_eq_true_iff.mp hr).1) fun ha => (Bool.and_eq_true_iff.mp ha).1
    exact hcalm.trans (State.calm_of_same rfl rfl rfl)
  | reply => exact .inl (State.calm_of_same rfl rfl rfl).quiet
  | pulses n => exact .inl (s.quiet_of_counts _ (repeatPulse_counts ctcPulse_counts n s.ctc))
  | edge k rising => exact .inl (s.quiet_of_counts _ (ctcEdge_counts k rising s.ctc))
  | externalPulses k n => exact .inl (s.quiet_of_counts _ (repeatPulse_counts (trigger_counts cascadeDepth k) n s.ctc))
  | link a b =>
    refine .inl (State.Calm.quiet ?_)
    rintro (j | p | ⟨e, j⟩)
    · cases a <;> cases b <;> cases j <;> exact ⟨id, id⟩
    · exact ⟨id, id⟩
    · exact ⟨id, id⟩
  | accept t ha ht =>
    obtain ⟨x, -, hx⟩ := accepts_of_acceptDevice (s := s) ht fun y => ⟨s.requested_markCtc y, s.accepted_markCtc y⟩
    exact .inr ⟨ha, x, hx⟩
  | finish => exact .inl ((finishDevice_calm .ctc s).trans (State.calm_of_same rfl rfl rfl)).quiet
  | reset powerOn =>
    refine .inl (State.Calm.quiet ?_)
    rintro (j | p | ⟨e, j⟩)
    · cases j <;> exact ⟨nofun, nofun⟩
    · exact ⟨id, id⟩
    · exact ⟨id, id⟩

theorem PioEffect.quiet_or_accepts {i : Instr} {s t : State} (h : PioEffect i s t) :
    s.Quiet t ∨ (accepts i = true ∧ ∃ x, Accepts s t x) := by
  cases h with
  | write p b r hw =>
    obtain ⟨hflags, -⟩ := pioWrite_sameFlags hw
    refine .inl (State.Calm.quiet ?_)
    rintro (j | q | ⟨e, j⟩)
    · exact ⟨id, id⟩
    · exact ⟨(hflags q).1.symm.trans, (hflags q).2.symm.trans⟩
    · exact ⟨id, id⟩
  | writeData p v => exact .inl (s.quiet_of_moves _ _ (pioWriteData_moves p v s.pio))
  | readData p => exact .inl (s.quiet_of_moves _ _ (pioReadData_moves p s.pio))
  | put p v m strobe => exact .inl (s.quiet_of_moves _ _ (pioPut_moves p v m strobe s.pio))
  | fetch p strobe => exact .inl (s.quiet_of_moves _ _ (pioFetch_moves p strobe s.pio))
  | reply | draw => exact .inl (State.calm_of_same rfl rfl rfl).quiet
  | accept t ha ht =>
    obtain ⟨x, -, hx⟩ := accepts_of_acceptDevice ht fun y => ⟨rfl, rfl⟩
    exact .inr ⟨ha, x, hx⟩
  | finish => exact .inl ((finishDevice_calm .pio s).trans (State.calm_of_same rfl rfl rfl)).quiet
  | reset powerOn =>
    refine .inl (State.Calm.quiet ?_)
    rintro (j | q | ⟨e, j⟩)
    · exact ⟨id, id⟩
    · cases q <;> cases powerOn <;> exact ⟨nofun, nofun⟩
    · exact ⟨id, id⟩

theorem SioEffect.quiet_or_accepts {i : Instr} {s t : State} (h : SioEffect i s t) :
    s.Quiet t ∨ (accepts i = true ∧ ∃ x, Accepts s t x) := by
  cases h with
  | write c b => exact .inl ((s.sioWriteByte_calm c b).trans (State.calm_returning _ _)).quiet
  | writeTwice c a b =>
    have hwrites := (s.sioWriteByte_calm c a).trans (State.sioWriteByte_calm _ c b)
    exact .inl (hwrites.trans (State.calm_returning _ _)).quiet
  | readControl c => exact .inl (s.sioReadControl_calm c).quiet
  | readData c => exact .inl (s.sioReadData_calm c).quiet
  | reply => exact .inl (State.calm_returning s _).quiet
  | writeData c v =>
    refine .inl (s.quiet_modSio c _ fun q => ?_)
    exact .of_same rfl (fun k => by cases k <;> rfl) (fun k => by cases k <;> rfl)
  | put c v =>
    refine .inl (s.quiet_modSio c _ fun q => ?_)
    rcases q.putByte_spec v with ⟨-, he⟩ | ⟨-, he⟩ <;> rw [he]
    · exact .of_same rfl (fun k => by cases k <;> rfl) (fun k => by cases k <;> rfl)
    · exact .refl q
  | cts c level =>
    refine .inl (s.quiet_modSio c _ fun q => (q.modemChange_shifts q.cts level).trans ?_)
    exact .of_same rfl (fun k => by cases k <;> rfl) (fun k => by cases k <;> rfl)
  | dcd c level =>
    refine .inl (s.quiet_modSio c _ fun q => (q.modemChange_shifts q.dcd level).trans ?_)
    exact .of_same rfl (fun k => by cases k <;> rfl) (fun k => by cases k <;> rfl)
  | rxPulses c n => exact .inl (State.quiet_of_shifts rfl rfl (repeatPulse_shifts (sioRxPulse_shifts c) n s.sio))
  | txPulses c n => exact .inl (State.quiet_of_shifts rfl rfl (repeatPulse_shifts (sioTxPulse_shifts c) n s.sio))
  | pulses n => exact .inl (State.quiet_of_shifts rfl rfl (repeatPulse_shifts (sioPulse_shifts s.wiring) n s.sio))
  | accept t ha ht =>
    obtain ⟨x, -, hx⟩ := accepts_of_acceptDevice ht fun y => ⟨rfl, rfl⟩
    exact .inr ⟨ha, x, hx⟩
  | finish => exact .inl ((finishDevice_calm .sio s).trans (State.calm_returning _ _)).quiet
  | reset powerOn =>
    refine .inl (State.Calm.quiet ?_)
    rintro (j | q | ⟨e, k⟩)
    · exact ⟨id, id⟩
    · exact ⟨id, id⟩
    · have hch : (s.sioRun (s.sio.resetDevice powerOn, [])).sio.ch e = (s.sio.ch e).resetChannel powerOn := by
        cases e <;> rfl
      simp only [State.requested, State.accepted, hch, SioChannel.resetChannel_flags, Bool.false_eq_true, false_imp_iff,
        and_self]

theorem ChainEffect.quiet_or_accepts {i : Instr} {s t : State} (h : ChainEffect i s t) :
    s.Quiet t ∨ (accepts i = true ∧ ∃ x, s.chainRequest = some x.device ∧ Accepts s t x) := by
  obtain ⟨o, r, rfl | ⟨x, -, rfl⟩ | ⟨ha, x, hd, hreq, hacc, rfl⟩⟩ := h.cases
  · exact .inl (State.calm_of_same rfl rfl rfl).quiet
  · exact .inl ((s.calm_release x).trans (State.calm_of_same rfl rfl rfl)).quiet
  · refine .inr ⟨ha, x, hd, accepts_setFlags hreq hacc (fun y => ⟨rfl, rfl⟩) fun y => ?_⟩
    exact State.flags_congr rfl rfl rfl y

/-- No instruction but an acceptance puts a source in service, and none raises a request at a disabled source. -/
theorem exec_quiet_or_accepts {i : Instr} {s t : State} (h : exec i s = .next t) :
    s.Quiet t ∨ (accepts i = true ∧ ∃ x, Accepts s t x) := by
  rcases exec_cases h with ⟨-, he⟩ | ⟨-, he⟩ | ⟨-, he⟩ | ⟨-, he⟩
  · exact he.quiet_or_accepts
  · exact he.quiet_or_accepts
  · exact he.quiet_or_accepts
  · rcases he.quiet_or_accepts with hq | ⟨ha, x, -, hx⟩
    · exact .inl hq
    · exact .inr ⟨ha, x, hx⟩

/-- Settles O10: an effect raises requests at enabled sources only, and an acceptance raises none. -/
theorem requestsRiseOnlyWhenEnabled : Obligations.RequestsRiseOnlyWhenEnabled := by
  unfold Obligations.RequestsRiseOnlyWhenEnabled
  intro i s t y h hbefore hafter
  rcases exec_quiet_or_accepts h with hquiet | ⟨-, x, hx⟩
  · rcases (hquiet y).2 hafter with hreq | hen
    · simp [hbefore] at hreq
    · exact hen
  · rw [hx.requested y, hbefore] at hafter
    simp at hafter

end Sys2Proof.Machine

/-! PROOFS. What every instruction keeps: the parameters and the wiring, the PIO's requests, the latched ports, and one
source of each device in service (10_state.md R44; 60_exceptions.md R272, R278; 42_pio.md R178). -/

namespace Sys2Proof.Machine

/-! ## The cascade wiring -/

/-- The two ends of every cascade link are as they were. -/
def Ctc.SameLinks (c d : Ctc) : Prop :=
  ∀ k, (d.ch k).cascadeTo = (c.ch k).cascadeTo ∧ (d.ch k).cascadeFrom = (c.ch k).cascadeFrom

theorem Ctc.SameLinks.refl (c : Ctc) : c.SameLinks c := fun _ => ⟨rfl, rfl⟩

theorem Ctc.Counts.sameLinks {c d : Ctc} (h : c.Counts d) : c.SameLinks d := fun k => (h k).links

theorem Ctc.sameLinks_setCh (c : Ctc) (i : CtcIx) (v : CtcChannel)
    (h : v.cascadeTo = (c.ch i).cascadeTo ∧ v.cascadeFrom = (c.ch i).cascadeFrom) : c.SameLinks (c.setCh i v) := by
  intro k
  rw [Ctc.ch_setCh]
  split
  · next hk => exact hk ▸ h
  · exact ⟨rfl, rfl⟩

theorem ctcWrite_sameLinks (i : CtcIx) (b : Byte) (c : Ctc) : c.SameLinks (ctcWrite i b c) := by
  rcases ctcWrite_spec i b c with ⟨-, he⟩ | ⟨-, -, he⟩ | ⟨-, -, w, -, he⟩ <;> rw [he]
  · exact c.sameLinks_setCh i _ ⟨rfl, rfl⟩
  · intro k
    rw [Ctc.ch_withVector]
    exact ⟨rfl, rfl⟩
  · exact c.sameLinks_setCh i _ ⟨rfl, rfl⟩

theorem State.setFlags_sameLinks (s : State) (x : Source) (r a : Bool) : s.ctc.SameLinks (s.setFlags x r a).ctc := by
  cases x with
  | ctc i => exact s.ctc.sameLinks_setCh i _ ⟨rfl, rfl⟩
  | pio p => exact .refl _
  | sio c k => exact .refl _

theorem finishDevice_sameLinks (d : Device) (s : State) : s.ctc.SameLinks (finishDevice d s).ctc := by
  rcases finishDevice_cases d s with he | ⟨x, -, -, he⟩ <;> rw [he]
  · exact .refl _
  · exact s.setFlags_sameLinks x _ _

theorem CtcEffect.sameLinks {i : Instr} {s t : State} (he : CtcEffect i s t) (hi : ∀ a b, i ≠ .ctcConnectCascade a b) :
    s.ctc.SameLinks t.ctc := by
  cases he with
  | write k b => exact ctcWrite_sameLinks k b s.ctc
  | reply => exact .refl _
  | pulses n => exact (repeatPulse_counts ctcPulse_counts n s.ctc).sameLinks
  | edge k rising => exact (ctcEdge_counts k rising s.ctc).sameLinks
  | externalPulses k n => exact (repeatPulse_counts (trigger_counts cascadeDepth k) n s.ctc).sameLinks
  | link a b hlink => exact absurd hlink (hi a b)
  | accept t _ ht =>
    obtain ⟨x, -, -, -, rfl⟩ := acceptDevice_next ht
    exact s.markCtc.setFlags_sameLinks x false true
  | finish => exact finishDevice_sameLinks .ctc s
  | reset powerOn => exact fun k => by cases k <;> exact ⟨rfl, rfl⟩

theorem ChainEffect.sameLinks {i : Instr} {s t : State} (he : ChainEffect i s t) : s.ctc.SameLinks t.ctc := by
  obtain ⟨o, r, rfl | ⟨x, -, rfl⟩ | ⟨-, x, -, -, -, rfl⟩⟩ := he.cases
  · exact .refl _
  · exact s.setFlags_sameLinks x _ _
  · exact s.setFlags_sameLinks x _ _

/-- A chain operation changes no parameter, no waiting operation and emits nothing. -/
theorem ChainEffect.frame {i : Instr} {s t : State} (he : ChainEffect i s t) :
    t.wiring = s.wiring ∧ t.input = s.input ∧ t.trace = s.trace := by
  obtain ⟨o, r, rfl | ⟨x, -, rfl⟩ | ⟨-, x, -, -, -, rfl⟩⟩ := he.cases
  · exact ⟨rfl, rfl, rfl⟩
  · exact ⟨s.setFlags_wiring x _ _, s.setFlags_input x _ _, s.setFlags_trace x _ _⟩
  · exact ⟨s.setFlags_wiring x _ _, s.setFlags_input x _ _, s.setFlags_trace x _ _⟩

/-- Settles O9, from the frame of the effects of each device and the links each keeps. -/
theorem parametersAndWiringAreKept : Obligations.ParametersAndWiringAreKept := by
  unfold Obligations.ParametersAndWiringAreKept
  intro i s t h
  rcases exec_cases h with ⟨-, he⟩ | ⟨-, he⟩ | ⟨-, he⟩ | ⟨-, he⟩
  · have hlinks := he.sameLinks
    obtain ⟨c, o, es, r, rfl⟩ := he.frame
    exact ⟨rfl, rfl, ⟨es, rfl⟩, hlinks⟩
  · obtain ⟨p, es, r, n, rfl⟩ := he.frame
    exact ⟨rfl, rfl, ⟨es, rfl⟩, fun _ => Ctc.SameLinks.refl s.ctc⟩
  · obtain ⟨d, es, r, n, rfl⟩ := he.frame
    exact ⟨rfl, rfl, ⟨es, rfl⟩, fun _ => Ctc.SameLinks.refl s.ctc⟩
  · obtain ⟨hwiring, hinput, htrace⟩ := he.frame
    exact ⟨hwiring, hinput, ⟨[], by rw [htrace, List.append_nil]⟩, fun _ => he.sameLinks⟩

/-! ## Service and the requests of the PIO -/

theorem State.requested_release (s : State) (x y : Source) :
    (s.setFlags x (s.requested x) false).requested y = s.requested y := by
  rw [State.setFlags_requested]
  split
  · next hy => rw [hy]
  · rfl

theorem finishDevice_requested (d : Device) (s : State) (y : Source) :
    (finishDevice d s).requested y = s.requested y := by
  rcases finishDevice_cases d s with he | ⟨x, -, -, he⟩ <;> rw [he]
  exact s.requested_release x y

/-- Only an acceptance or a reset drops the request of a port (60_exceptions.md R272). -/
theorem PioEffect.keeps_request {i : Instr} {s t : State} (he : PioEffect i s t) (p : Side)
    (h : s.requested (.pio p) = true) :
    t.requested (.pio p) = true ∨ accepts i = true ∨ ∃ powerOn, i = .pioReset powerOn := by
  cases he with
  | write q b r hw => exact .inl (((pioWrite_sameFlags hw).1 p).1.trans h)
  | writeData q v => exact .inl ((pioWriteData_moves q v s.pio p).kept h)
  | readData q => exact .inl ((pioReadData_moves q s.pio p).kept h)
  | put q v m strobe => exact .inl ((pioPut_moves q v m strobe s.pio p).kept h)
  | fetch q strobe => exact .inl ((pioFetch_moves q strobe s.pio p).kept h)
  | reply | draw => exact .inl h
  | accept t ha => exact .inr (.inl ha)
  | finish => exact .inl ((finishDevice_requested .pio s (.pio p)).trans h)
  | reset powerOn hi => exact .inr (.inr ⟨powerOn, hi⟩)

theorem ChainEffect.keeps_request {i : Instr} {s t : State} (he : ChainEffect i s t) (y : Source)
    (h : s.requested y = true) : t.requested y = true ∨ accepts i = true := by
  obtain ⟨o, r, rfl | ⟨x, -, rfl⟩ | ⟨ha, -⟩⟩ := he.cases
  · exact .inl ((State.flags_congr rfl rfl rfl y).1.trans h)
  · exact .inl ((State.flags_congr rfl rfl rfl y).1.trans ((s.requested_release x y).trans h))
  · exact .inr ha

/-- Settles O11: every other effect is quiet, and keeps the requests of the ports unless it resets them. -/
theorem serviceBeginsOnlyByAcceptance : Obligations.ServiceBeginsOnlyByAcceptance := by
  unfold Obligations.ServiceBeginsOnlyByAcceptance
  constructor
  · intro i s t x h hbefore hafter
    rcases exec_quiet_or_accepts h with hquiet | ⟨ha, -⟩
    · simp [(hquiet x).1 hafter] at hbefore
    · exact ha
  · intro i s t p h hbefore hafter
    rcases exec_cases h with ⟨-, he⟩ | ⟨-, he⟩ | ⟨-, he⟩ | ⟨-, he⟩
    · obtain ⟨c, o, es, r, rfl⟩ := he.frame
      exact absurd (hbefore.symm.trans hafter) (by decide)
    · rcases he.keeps_request p hbefore with hkept | hlost
      · simp [hafter] at hkept
      · exact hlost
    · obtain ⟨d, es, r, n, rfl⟩ := he.frame
      exact absurd (hbefore.symm.trans hafter) (by decide)
    · rcases he.keeps_request (.pio p) hbefore with hkept | ha
      · simp [hafter] at hkept
      · exact .inl ha

/-! ## The PIO's latch (42_pio.md R178) -/

/-- No handshake flag and no request of a port has changed. -/
def Pio.SameHandshake (d e : Pio) : Prop :=
  ∀ p, (e.port p).ready = (d.port p).ready ∧ (e.port p).intRequested = (d.port p).intRequested

theorem Pio.sameHandshake_modPort (d : Pio) (p : Side) (f : PioPort → PioPort)
    (hf : ∀ q : PioPort, (f q).ready = q.ready ∧ (f q).intRequested = q.intRequested) :
    d.SameHandshake (d.modPort p f) := by
  intro q
  rw [Pio.port_modPort]
  split
  · next hq => exact hq ▸ hf _
  · exact ⟨rfl, rfl⟩

theorem pioWriteData_latched (p : Side) (v : Byte) (d : Pio) (h : d.resetState = true) :
    (pioWriteData p v d).2 = [] ∧ d.SameHandshake (pioWriteData p v d).1 := by
  simp only [pioWriteData, h, if_true, true_and]
  exact d.sameHandshake_modPort p _ fun _ => ⟨rfl, rfl⟩

theorem pioReadData_latched (p : Side) (d : Pio) (h : d.resetState = true) :
    (pioReadData p d).2 = [] ∧ d.SameHandshake (pioReadData p d).1 := by
  have hmask (q : Side) : d.SameHandshake (d.modPort q fun r => { r with valueMask := 0x00 }) :=
    d.sameHandshake_modPort q _ fun _ => ⟨rfl, rfl⟩
  unfold pioReadData
  cases hm : (d.port p).mode with
  | byteOut => exact ⟨rfl, fun _ => ⟨rfl, rfl⟩⟩
  | byteIn =>
    simp only [h, Bool.true_or, if_true, true_and]
    exact hmask p
  | byteInOut =>
    simp only [h, if_true, true_and]
    exact hmask .a
  | bitInOut => exact ⟨rfl, hmask p⟩

theorem pioPut_latched (p : Side) (v m : Byte) (strobe : Bool) (d : Pio) (h : d.resetState = true) :
    d.SameHandshake (pioPut p v m strobe d) := by
  simp only [pioPut, h, if_true]
  exact d.sameHandshake_modPort p _ fun _ => ⟨rfl, rfl⟩

theorem pioFetch_latched (p : Side) (strobe : Bool) (d : Pio) (h : d.resetState = true) : pioFetch p strobe d = d := by
  simp only [pioFetch, h, Bool.true_or, if_true]

/-- The flags of a source are no handshake. -/
theorem State.setFlags_ready (s : State) (x : Source) (r a : Bool) (p : Side) :
    ((s.setFlags x r a).pio.port p).ready = (s.pio.port p).ready := by
  cases x with
  | ctc i => rfl
  | sio c k => rfl
  | pio q => cases q <;> cases p <;> rfl

/-- Settles O12: a control write would clear the latch, the data paths stop at it, and an acceptance or a return only
drops flags. -/
theorem resetLatchGatesThePio : Obligations.ResetLatchGatesThePio := by
  unfold Obligations.ResetLatchGatesThePio
  intro i s t hd hreset h hbefore hafter
  rcases exec_cases h with ⟨hi, -⟩ | ⟨-, he⟩ | ⟨hi, -⟩ | ⟨hi, -⟩
  case inr.inl =>
    have hsame {d : Pio} (hs : s.pio.SameHandshake d) (p : Side) :
        (d.port p).ready = (s.pio.port p).ready ∧
          ((s.pio.port p).intRequested = false → (d.port p).intRequested = false) :=
      ⟨(hs p).1, (hs p).2.trans⟩
    cases he with
    | write p b r hw =>
      have hclear : r.1.resetState = false := (pioWrite_sameFlags hw).2
      have hset : r.1.resetState = true := hafter
      simp [hclear] at hset
    | writeData p v =>
      obtain ⟨hev, hs⟩ := pioWriteData_latched p v s.pio hbefore
      exact ⟨by simp [State.pioRun, hev], hsame hs⟩
    | readData p =>
      obtain ⟨hev, hs⟩ := pioReadData_latched p s.pio hbefore
      exact ⟨by simp [State.pioRun, hev], hsame hs⟩
    | put p v m strobe => exact ⟨List.append_nil _, hsame (pioPut_latched p v m strobe s.pio hbefore)⟩
    | fetch p strobe =>
      rw [pioFetch_latched p strobe s.pio hbefore]
      exact ⟨List.append_nil _, fun _ => ⟨rfl, id⟩⟩
    | reply | draw => exact ⟨rfl, fun _ => ⟨rfl, id⟩⟩
    | accept t _ ht =>
      obtain ⟨x, -, -, -, rfl⟩ := acceptDevice_next ht
      refine ⟨s.setFlags_trace x false true, fun p => ⟨s.setFlags_ready x false true p, fun hreq => ?_⟩⟩
      have hflag := s.setFlags_requested x (.pio p) false true
      rw [show s.requested (.pio p) = false from hreq, ite_self] at hflag
      exact hflag
    | finish =>
      have hreq (p : Side) : ((finishDevice .pio s).pio.port p).intRequested = (s.pio.port p).intRequested :=
        finishDevice_requested .pio s (.pio p)
      rcases finishDevice_cases .pio s with hf | ⟨x, -, -, hf⟩ <;> rw [hf] at hreq ⊢
      · exact ⟨rfl, fun _ => ⟨rfl, id⟩⟩
      · exact ⟨s.setFlags_trace x _ _, fun p => ⟨s.setFlags_ready x _ _ p, (hreq p).trans⟩⟩
    | reset powerOn hi => exact absurd hi (hreset powerOn)
  all_goals simp [hi] at hd

/-! ## One source of each device in service (60_exceptions.md R278) -/

theorem State.OneInService.of_subset {s t : State} (h : s.OneInService)
    (hsub : ∀ x, t.accepted x = true → s.accepted x = true) : t.OneInService :=
  fun d x y hx hy hax hay => h d x y hx hy (hsub x hax) (hsub y hay)

/-- A source of a device that has none in service may go in service. -/
theorem State.OneInService.of_accepts {s t : State} {x : Source} (h : s.OneInService) (hx : Accepts s t x)
    (hfree : s.isAccepted x.device = false) : t.OneInService := by
  have hnone (y : Source) (hy : y.device = x.device) : s.accepted y = false := by
    by_contra hne
    have hin : s.isAccepted x.device = true :=
      (s.isAccepted_iff _).mpr ⟨y, (mem_sources_iff y _).mpr hy, by simpa using hne⟩
    simp [hfree] at hin
  have hcases (y : Source) (hy : t.accepted y = true) : y = x ∨ s.accepted y = true := by
    rw [hx.accepted y] at hy
    split at hy
    · next he => exact .inl he
    · exact .inr hy
  intro d y z hy hz hay haz
  rw [mem_sources_iff] at hy hz
  rcases hcases y hay with rfl | hsy <;> rcases hcases z haz with rfl | hsz
  · rfl
  · simp [hnone z (hz.trans hy.symm)] at hsz
  · simp [hnone y (hy.trans hz.symm)] at hsy
  · exact h d y z ((mem_sources_iff y d).mpr hy) ((mem_sources_iff z d).mpr hz) hsy hsz

/-- The device a walk finds has no source in service, and no device before it has. -/
theorem State.chainRequest_spec {s : State} {d : Device} (h : s.chainRequest = some d) :
    ∃ pre post, s.wiring.chainOrder.devices = pre ++ d :: post ∧ ∀ e, e = d ∨ e ∈ pre → s.isAccepted e = false := by
  obtain ⟨pre, post, hl, hpre, hd, -⟩ := (chainWalk_eq_some s _ d).mp h
  refine ⟨pre, post, hl, fun e he => ?_⟩
  rcases he with rfl | he
  · exact hd
  · exact (hpre e he).1

/-- A completing `chainAccept` takes a source of the device the walk finds. -/
theorem chainAccept_accepts {s t : State} (h : exec .chainAccept s = .next t) :
    ∃ x, s.chainRequest = some x.device ∧ Accepts s t x ∧ t.wiring = s.wiring := by
  have he := ChainEffect.of_chainAccept h
  obtain ⟨d, ends, hd, ht⟩ := exec_chainAccept_of_next s t h
  obtain ⟨x, hx, haccepts⟩ := accepts_of_acceptDevice (s := s) ht fun y =>
    ⟨s.requested_markWalk ends y, s.accepted_markWalk ends y⟩
  exact ⟨x, hx ▸ hd, haccepts, he.frame.1⟩

/-- After an acceptance the devices in service are those before, and the one of the source taken. -/
theorem Accepts.isAccepted {s t : State} {x : Source} (h : Accepts s t x) (e : Device) :
    t.isAccepted e = (s.isAccepted e || decide (e = x.device)) := by
  rw [Bool.eq_iff_iff, Bool.or_eq_true_iff, State.isAccepted_iff, State.isAccepted_iff, decide_eq_true_iff]
  constructor
  · rintro ⟨y, hy, ha⟩
    rw [h.accepted y] at ha
    split at ha
    · next hyx => exact .inr (hyx ▸ ((mem_sources_iff y e).mp hy).symm)
    · exact .inl ⟨y, hy, ha⟩
  · rintro (⟨y, hy, ha⟩ | rfl)
    · exact ⟨y, hy, by rw [h.accepted y, ha, ite_self]⟩
    · exact ⟨x, (mem_sources_iff x _).mpr rfl, by rw [h.accepted x, if_pos rfl]⟩

theorem chainServed_of_first {s : State} {pre post : List Device} {d : Device}
    (hl : s.wiring.chainOrder.devices = pre ++ d :: post) (hpre : ∀ e ∈ pre, s.isAccepted e = false)
    (hd : s.isAccepted d = true) : s.chainServed = some d :=
  List.find?_eq_some_iff_append.mpr ⟨hd, pre, post, hl, fun e he => by simp [hpre e he]⟩

theorem exec_chainFinish_of_served {s : State} {d : Device} (h : s.chainServed = some d) :
    exec .chainFinish s = .next (finishDevice d ((s.markWalk s.isAccepted).returning .unit)) := by
  have hexec : exec .chainFinish s = execChainFinish s := rfl
  rw [hexec, execChainFinish, h]

/-- The only source of a device in service is the one a return releases. -/
theorem finishDevice_of_only (d : Device) (s : State) (x : Source) (hx : x.device = d) (ha : s.accepted x = true)
    (honly : ∀ y, y.device = d → y ≠ x → s.accepted y = false) :
    finishDevice d s = s.setFlags x (s.requested x) false := by
  rcases finishDevice_cases d s with he | ⟨y, hy, hay, he⟩
  · rcases finishDevice_spec d s with ⟨pre, y, post, hl, -, hay, hs⟩ | ⟨hnone, -⟩
    · obtain rfl : y = x := by
        by_contra hne
        simp [honly y ((mem_sources_iff y d).mp (by simp [hl])) hne] at hay
      exact hs
    · simp [hnone x ((mem_sources_iff x d).mpr hx)] at ha
  · obtain rfl : y = x := by
      by_contra hne
      simp [honly y hy hne] at hay
    exact he

/-- A return over the chain right after an acceptance releases the source taken. -/
theorem chainFinish_after_chainAccept {s t : State} {x : Source} (hd : s.chainRequest = some x.device)
    (hx : Accepts s t x) (hw : t.wiring = s.wiring) :
    ∃ u, exec .chainFinish t = .next u ∧ ∀ y, u.accepted y = s.accepted y := by
  obtain ⟨pre, post, hl, hfree⟩ := State.chainRequest_spec hd
  have hnodup : (pre ++ x.device :: post).Nodup := hl ▸ s.wiring.chainOrder.nodup
  have hnotin : x.device ∉ pre := fun hmem =>
    (List.nodup_append.mp hnodup).2.2 _ hmem _ List.mem_cons_self rfl
  have hserved : t.chainServed = some x.device := by
    refine chainServed_of_first (hw ▸ hl) (fun e he => ?_) ?_
    · rw [hx.isAccepted, hfree e (.inr he), Bool.false_or, decide_eq_false_iff_not]
      rintro rfl
      exact hnotin he
    · rw [hx.isAccepted, decide_eq_true rfl, Bool.or_true]
  have honly (y : Source) (hy : y.device = x.device) (hne : y ≠ x) :
      ((t.markWalk t.isAccepted).returning .unit).accepted y = false := by
    rw [State.accepted_returning, State.accepted_markWalk, hx.accepted y, if_neg hne]
    by_contra hacc
    have hin := (s.isAccepted_iff x.device).mpr ⟨y, (mem_sources_iff y _).mpr hy, by simpa using hacc⟩
    simp [hfree x.device (.inl rfl)] at hin
  have htaken : ((t.markWalk t.isAccepted).returning .unit).accepted x = true := by
    rw [State.accepted_returning, State.accepted_markWalk, hx.accepted x, if_pos rfl]
  refine ⟨_, exec_chainFinish_of_served hserved, fun y => ?_⟩
  rw [finishDevice_of_only x.device _ x rfl htaken honly, State.setFlags_accepted, State.accepted_returning,
    State.accepted_markWalk, hx.accepted y]
  split
  · next hy => rw [hy, hx.wasFree]
  · rfl

/-- Settles O57: no other instruction puts a source in service, the chain takes a device with none, and the return right
after it finds that device first again. -/
theorem chainServiceNests : Obligations.ChainServiceNests := by
  unfold Obligations.ChainServiceNests
  constructor
  · intro i s t hi hone h
    rcases hi with hi | rfl
    · rcases exec_quiet_or_accepts h with hquiet | ⟨ha, -⟩
      · exact hone.of_subset fun x => (hquiet x).1
      · simp [hi] at ha
    · obtain ⟨x, hd, hx, -⟩ := chainAccept_accepts h
      obtain ⟨pre, post, -, hfree⟩ := State.chainRequest_spec hd
      exact hone.of_accepts hx (hfree _ (.inl rfl))
  · intro s t hone h
    obtain ⟨x, hd, hx, hw⟩ := chainAccept_accepts h
    obtain ⟨pre, post, hl, hfree⟩ := State.chainRequest_spec hd
    obtain ⟨u, hu, hsame⟩ := chainFinish_after_chainAccept hd hx hw
    exact ⟨⟨pre, x.device, post, hl, hfree, hx.isAccepted⟩,
      u, hu, hone.of_subset fun y hy => (hsame y).symm.trans hy, hsame⟩

end Sys2Proof.Machine

/-! PROOFS. The byte-format rows are control writes, and the control bytes of the CTC (30_encoding.md R80 to R100;
41_ctc.md R140 to R145). -/

namespace Sys2Proof.Machine

/-! ## A byte is the encoding of its fields -/

/-- A byte with bit 0 clear is a vector word (30_encoding.md R83). -/
theorem decodeCtc_of_even (b : Byte) (h : b.getLsbD 0 = false) :
    decodeCtc false b = .vector (b.extractLsb' 3 5) (b.extractLsb' 1 2) := by
  simp only [decodeCtc, h, Bool.false_eq_true, if_false]

/-- The fields of a control word, by its bits (30_encoding.md R82). -/
def ctcControlOf (b : Byte) : CtcControl :=
  { interruptEnable := b.getLsbD 7, counterMode := b.getLsbD 6, prescale256 := b.getLsbD 5, risingEdge := b.getLsbD 4,
    waitForTrigger := b.getLsbD 3, constantFollows := b.getLsbD 2, softwareReset := b.getLsbD 1 }

/-- A byte with bit 0 set is a control word (30_encoding.md R82). -/
theorem decodeCtc_of_odd (b : Byte) (h : b.getLsbD 0 = true) : decodeCtc false b = .control (ctcControlOf b) := by
  simp only [decodeCtc, h, Bool.false_eq_true, if_false, if_true, ctcControlOf]

theorem encodeCtc_of_decode {expect : Bool} {b : Byte} {x : CtcByte} (h : decodeCtc expect b = x) : encodeCtc x = b :=
  h ▸ encodeCtc_decodeCtc expect b

theorem encodePio_of_decode {next : NextControl} {b : Byte} {x : PioByte} (h : decodePio next b = x) :
    encodePio x = b :=
  h ▸ encodePio_decodePio next b

theorem encodeSio_of_decode {ptr : BitVec 3} {b : Byte} {x : SioByte} (h : decodeSio ptr b = x) : encodeSio x = b :=
  h ▸ encodeSio_decodeSio ptr b

/-- Bit 0 of a byte, from its low nibble. -/
theorem getLsbD_zero_of_nibble {b : Byte} {n : BitVec 4} (h : b.extractLsb' 0 4 = n) : b.getLsbD 0 = n.getLsbD 0 := by
  rw [← h, BitVec.getLsbD_extractLsb']
  rfl

/-- A low nibble F is a mode word (30_encoding.md R86). -/
theorem decodePio_of_modeNibble (b : Byte) (h : b.extractLsb' 0 4 = 0xF) :
    decodePio .command b = .mode (decodePioMode (b.extractLsb' 6 2)) (b.extractLsb' 4 2) := by
  have hodd : b.getLsbD 0 = true := getLsbD_zero_of_nibble h
  simp only [decodePio, hodd, h]
  rfl

/-- The fields of an interrupt control word, by its bits (30_encoding.md R87). -/
def pioConditionOf (b : Byte) : PioCondition :=
  { interruptEnable := b.getLsbD 7, andCombined := b.getLsbD 6, activeHigh := b.getLsbD 5, maskFollows := b.getLsbD 4 }

/-- A low nibble 7 is an interrupt control word (30_encoding.md R87). -/
theorem decodePio_of_conditionNibble (b : Byte) (h : b.extractLsb' 0 4 = 0x7) :
    decodePio .command b = .condition (pioConditionOf b) := by
  have hodd : b.getLsbD 0 = true := getLsbD_zero_of_nibble h
  simp only [decodePio, hodd, h]
  rfl

/-- A low nibble 3 is an enable word (30_encoding.md R88). -/
theorem decodePio_of_enableNibble (b : Byte) (h : b.extractLsb' 0 4 = 0x3) :
    decodePio .command b = .enable (b.getLsbD 7) (b.extractLsb' 4 3) := by
  have hodd : b.getLsbD 0 = true := getLsbD_zero_of_nibble h
  simp only [decodePio, hodd, h]
  rfl

/-- A low nibble B is reserved (30_encoding.md R92). -/
theorem decodePio_of_nibbleB (b : Byte) (h : b.extractLsb' 0 4 = 0xB) :
    decodePio .command b = .reservedB (b.extractLsb' 4 4) := by
  have hodd : b.getLsbD 0 = true := getLsbD_zero_of_nibble h
  simp only [decodePio, hodd, h]
  rfl

/-- The low nibbles 1, 5, 9 and D, which end in 01, are reserved (30_encoding.md R92). -/
theorem decodePio_of_lowBits01 (b : Byte) (h : b.extractLsb' 0 2 = 1) :
    decodePio .command b = .reserved (b.extractLsb' 2 6) := by
  revert b
  decide

/-- A command byte is put together from its three fields (30_encoding.md R94). -/
theorem append_wr0Fields {b : Byte} {crc : BitVec 2} {cmd ptr : BitVec 3} (h : Wr0Fields b crc cmd ptr) :
    crc ++ cmd ++ ptr = b := by
  obtain ⟨rfl, rfl, rfl⟩ := h
  revert b
  decide

/-- Every row of the CTC carries the byte it writes. -/
theorem exec_of_ctcWrites {op : Instr} {i : CtcIx} {b : Byte} (h : CtcWrites op i b) (s : State) :
    exec op s = exec (.ctcWriteControl i b) s := by
  have hrow {x : CtcByte} (hx : encodeCtc x = b) :
      .next (s.ctcWriteByte i (encodeCtc x)) = exec (.ctcWriteControl i b) s := by
    rw [hx]
    rfl
  cases h with
  | control | data | tc => rfl
  | vec _ sel base x _ hbase hx heven =>
    subst hbase hx
    exact hrow (encodeCtc_of_decode (decodeCtc_of_even b heven))
  | cw _ sel w _ h7 h6 h5 h4 h3 h2 h1 h0 =>
    have hw : w = ctcControlOf b := by
      cases w
      simp_all [ctcControlOf]
    exact hrow (hw ▸ encodeCtc_of_decode (decodeCtc_of_odd b h0))

/-- Every row of the PIO carries the byte it writes. -/
theorem exec_of_pioWrites {op : Instr} {p : Side} {b : Byte} (h : PioWrites op p b) (s : State) :
    exec op s = exec (.pioWriteControl p b) s := by
  have hrow {x : PioByte} (hx : decodePio .command b = x) :
      s.pioWriteByte p (encodePio x) = exec (.pioWriteControl p b) s := by
    rw [encodePio_of_decode hx]
    rfl
  have hmode {m : BitVec 2} {x : BitVec 2} (hm : b.extractLsb' 6 2 = m) (hx : b.extractLsb' 4 2 = x)
      (hn : b.extractLsb' 0 4 = 0xF) : decodePio .command b = .mode (decodePioMode m) x := by
    rw [decodePio_of_modeNibble b hn, hm, hx]
  cases h with
  | control | dir | imask => rfl
  | vec _ v _ hv heven =>
    subst hv
    exact hrow (decodePio_of_even b heven)
  | modeOut _ x _ hm hx hn => exact hrow (hmode hm hx hn)
  | modeIn _ x _ hm hx hn => exact hrow (hmode hm hx hn)
  | modeInOut _ x _ hm hx hn => exact hrow (hmode hm hx hn)
  | modeBit _ x _ hm hx hn => exact hrow (hmode hm hx hn)
  | icw _ w _ h7 h6 h5 h4 hn =>
    cases w
    subst h7 h6 h5 h4
    exact hrow (decodePio_of_conditionNibble b hn)
  | iew _ e x _ he hx hn =>
    subst he hx
    exact hrow (decodePio_of_enableNibble b hn)
  | rsvd _ x _ hx hn =>
    subst hx
    exact hrow (decodePio_of_lowBits01 b hn)
  | rsvdB _ x _ hx hn =>
    subst hx
    exact hrow (decodePio_of_nibbleB b hn)

/-- Every row of the SIO carries the byte it writes. -/
theorem exec_of_sioWrites {op : Instr} {c : Side} {b : Byte} (h : SioWrites op c b) (s : State) :
    exec op s = exec (.sioWriteControl c b) s := by
  have hrow {x : Byte} (hx : x = b) :
      .next ((s.sioWriteByte c x).returning .unit) = exec (.sioWriteControl c b) s := by
    rw [hx]
    rfl
  cases h with
  | control | wr2 | wr6 | wr7 => rfl
  | null _ _ _ _ hf | cmd1 _ _ _ _ hf | resetExt _ _ _ _ hf | channelReset _ _ _ _ hf | firstChar _ _ _ _ hf
  | resetTx _ _ _ _ hf
  | errorReset _ _ _ _ hf | reti _ _ _ _ hf => exact hrow (append_wr0Fields hf)
  | wr1 _ w _ hwait hmode hsav htx hext =>
    cases w
    subst hwait hmode hsav htx hext
    exact hrow (encodeSio_of_decode (ptr := 1) (x := .wr1 (decodeWr1 b)) rfl)
  | wr3 _ w _ hbits hstored hrx =>
    cases w
    subst hbits hstored hrx
    exact hrow (encodeSio_of_decode (ptr := 3) (x := .wr3 (decodeWr3 b)) rfl)
  | wr4 _ w _ hrate hsync hstop heven hpar =>
    cases w
    subst hrate hsync hstop heven hpar
    exact hrow (encodeSio_of_decode (ptr := 4) (x := .wr4 (decodeWr4 b)) rfl)
  | wr5 _ w _ hdtr hbits hbreak htx hsel hrts hcrc =>
    cases w
    subst hdtr hbits hbreak htx hsel hrts hcrc
    exact hrow (encodeSio_of_decode (ptr := 5) (x := .wr5 (decodeWr5 b)) rfl)

/-! ## Which control writes complete -/

/-- A byte is a mode word only where a command is expected, with a low nibble F (30_encoding.md R85, R86). -/
theorem decodePio_eq_mode {next : NextControl} {b : Byte} {m : PioMode} {x : BitVec 2}
    (h : decodePio next b = .mode m x) :
    next = .command ∧ b.extractLsb' 0 4 = 0xF ∧ m = decodePioMode (b.extractLsb' 6 2) := by
  cases next with
  | directionMask | interruptMask => cases h
  | command =>
    have hn : b.extractLsb' 0 4 = 0xF := by
      by_contra hne
      simp only [decodePio] at h
      split at h
      · cases h
      · split at h
        · next hn => exact hne hn
        · split at h
          · cases h
          · split at h
            · cases h
            · split at h <;> cases h
    rw [decodePio_of_modeNibble b hn] at h
    cases h
    exact ⟨rfl, hn, rfl⟩

theorem decodePioMode_eq_byteInOut (m : BitVec 2) (h : decodePioMode m = .byteInOut) : m = 2 := by
  revert m
  decide

/-- The only control write the spec refuses (42_pio.md R194). -/
theorem bidirectionalB_of_pioWrite_none {s : State} {p : Side} {b : Byte} (h : pioWrite p b s.pio = none) :
    BidirectionalB s p b := by
  rw [pioWrite_eq] at h
  split at h
  case h_4 m x hdecode =>
    obtain ⟨hnext, hn, hm⟩ := decodePio_eq_mode hdecode
    rw [Option.map_eq_none_iff] at h
    rcases Pio.writeMode_spec { s.pio with resetState := false } p m with ⟨rfl, rfl, -⟩ | ⟨-, -, hs⟩ | ⟨-, hs⟩
    · exact ⟨rfl, hnext, hn, decodePioMode_eq_byteInOut _ hm.symm⟩
    · simp [hs] at h
    · simp [hs] at h
  all_goals cases h

theorem exec_pioWriteControl_completes (s : State) (p : Side) (b : Byte) (h : ¬ BidirectionalB s p b) :
    ∃ t, exec (.pioWriteControl p b) s = .next t := by
  rw [exec_pioWriteControl, State.pioWriteByte]
  cases hw : pioWrite p b s.pio with
  | some r => exact ⟨_, rfl⟩
  | none => exact absurd (bidirectionalB_of_pioWrite_none hw) h

/-- Settles O13: every row writes the byte of its fields, and only the mode word port B does not have is refused. -/
theorem formatRowsAreControlWrites : Obligations.FormatRowsAreControlWrites := by
  unfold Obligations.FormatRowsAreControlWrites
  refine ⟨fun op i b s h => ⟨exec_of_ctcWrites h s, ?_⟩, fun op p b s h => ⟨exec_of_pioWrites h s, fun hb => ?_⟩,
    fun op c b s h => ⟨exec_of_sioWrites h s, ?_⟩⟩
  · exact ⟨_, exec_of_ctcWrites h s⟩
  · rw [exec_of_pioWrites h s]
    exact exec_pioWriteControl_completes s p b hb
  · exact ⟨_, exec_of_sioWrites h s⟩

/-! ## The control bytes of the CTC -/

theorem vectorByte_eq_mask (b : Byte) : b.extractLsb' 3 5 ++ 0#3 = b &&& 0xF8 := by
  revert b
  decide

/-- Settles O15: an even byte is decoded as a vector word, whose low three bits are cleared. -/
theorem ctcVectorWordSetsVector : Obligations.CtcVectorWordSetsVector := by
  unfold Obligations.CtcVectorWordSetsVector
  intro s i b hexpect heven
  have hwrite : ctcWrite i b s.ctc = { s.ctc with vector := b &&& 0xF8 } := by
    rw [ctcWrite, hexpect, decodeCtc_of_even b heven, ← vectorByte_eq_mask b]
  rw [exec_ctcWriteControl, hwrite]
  rfl

/-- Settles O16: an odd byte is decoded as a control word, and the two fields that only drop are kept or cleared by one
bit each. -/
theorem ctcControlWordSetsFields : Obligations.CtcControlWordSetsFields := by
  unfold Obligations.CtcControlWordSetsFields
  intro s i b hexpect hodd
  have hwrite : ctcWrite i b s.ctc = s.ctc.setCh i ((s.ctc.ch i).controlWord (ctcControlOf b)) := by
    rw [ctcWrite, hexpect, decodeCtc_of_odd b hodd]
  have hdrop (flag keep : Bool) : (flag && keep) = if keep then flag else false := by
    cases keep <;> simp
  have hstop (flag stop : Bool) : (flag && !stop) = if stop then false else flag := by
    cases stop <;> simp
  rw [exec_ctcWriteControl, hwrite, CtcChannel.controlWord, ctcControlOf, hstop, hdrop, hdrop]
  rfl

/-- Settles O17: both reads reply with the counter as one byte. -/
theorem ctcReadReturnsCounter : Obligations.CtcReadReturnsCounter := by
  unfold Obligations.CtcReadReturnsCounter
  rintro s i op hop
  refine ⟨s.ctc.readCounter i, BitVec.toNat_ofNat _ 8, ?_⟩
  rcases hop with rfl | rfl <;> rfl

end Sys2Proof.Machine

/-! PROOFS. The CTC counts (41_ctc.md R146 to R155): batches, edges, and one clock pulse without cascade links. -/

namespace Sys2Proof.Machine

/-! ## Operations one after another -/

theorem exec_ctcOnClockPulses (n : BitVec 32) (s : State) :
    exec (.ctcOnClockPulses n) s = .next (s.ctcRun (repeatPulse ctcPulse n.toNat s.ctc)) := rfl

theorem exec_ctcExternalEdge (i : CtcIx) (rising : Bool) (s : State) :
    exec (.ctcExternalEdge i rising) s = .next (s.ctcRun (ctcEdge i rising s.ctc)) := rfl

theorem exec_ctcExternalPulses (i : CtcIx) (n : Nat) (s : State) :
    exec (.ctcExternalPulses i n) s = .next (s.ctcRun (repeatPulse (trigger cascadeDepth i) n s.ctc)) := rfl

theorem exec_sioOnClockPulses (n : BitVec 32) (s : State) :
    exec (.sioOnClockPulses n) s = .next (s.sioRun (repeatPulse (sioPulse s.wiring) n.toNat s.sio)) := rfl

@[simp] theorem State.ctcRun_ctc (s : State) (r : Ctc × List Event) : (s.ctcRun r).ctc = r.1 := rfl

@[simp] theorem State.sioRun_sio (s : State) (r : Sio × List Event) : (s.sioRun r).sio = r.1 := rfl

/-- Two CTC operations in a row leave the second device and the events of both. -/
theorem State.ctcRun_ctcRun (s : State) (r q : Ctc × List Event) :
    (s.ctcRun r).ctcRun q = s.ctcRun (q.1, r.2 ++ q.2) := by
  simp only [State.ctcRun, State.emit, State.setCtc, State.markCtc, State.returning, List.append_assoc]

theorem State.sioRun_sioRun (s : State) (r q : Sio × List Event) :
    (s.sioRun r).sioRun q = s.sioRun (q.1, r.2 ++ q.2) := by
  simp only [State.sioRun, State.emit, State.setSio, State.returning, List.append_assoc]

/-- A CTC operation without an event. -/
theorem State.ctcRun_silent (s : State) (c : Ctc) :
    s.ctcRun (c, []) = { s with ctc := c, ctcOperated := true, reply := .unit } := by
  simp only [State.ctcRun, State.emit_nil]
  rfl

theorem State.sioRun_silent (s : State) (d : Sio) : s.sioRun (d, []) = { s with sio := d, reply := .unit } := by
  simp only [State.sioRun, State.emit_nil]
  rfl

theorem State.ctcRun_batches (s : State) (f : Ctc → Ctc × List Event) (a b : Nat) :
    (s.ctcRun (repeatPulse f a s.ctc)).ctcRun (repeatPulse f b (repeatPulse f a s.ctc).1) =
      s.ctcRun (repeatPulse f (a + b) s.ctc) := by
  rw [State.ctcRun_ctcRun, repeatPulse_add]

theorem State.sioRun_batches (s : State) (f : Sio → Sio × List Event) (a b : Nat) :
    (s.sioRun (repeatPulse f a s.sio)).sioRun (repeatPulse f b (repeatPulse f a s.sio).1) =
      s.sioRun (repeatPulse f (a + b) s.sio) := by
  rw [State.sioRun_sioRun, repeatPulse_add]

/-- Settles O18: a batch repeats one pulse, so that two batches are the batch of their sum. -/
theorem pulseBatchesMerge : Obligations.PulseBatchesMerge := by
  unfold Obligations.PulseBatchesMerge
  refine ⟨fun s => ?_, fun s => ?_, fun s n => rfl, fun s a b hab => ?_⟩
  · rw [exec_ctcOnClockPulses]
    exact congrArg _ (s.ctcRun_silent s.ctc)
  · rw [exec_sioOnClockPulses]
    exact congrArg _ (s.sioRun_silent s.sio)
  · have hsum : (a + b).toNat = a.toNat + b.toNat := by rw [BitVec.toNat_add, Nat.mod_eq_of_lt hab]
    refine ⟨⟨_, _, rfl, rfl, ?_⟩, ⟨_, _, rfl, rfl, ?_⟩⟩
    · rw [exec_ctcOnClockPulses, hsum, ← s.ctcRun_batches]
      rfl
    · rw [exec_sioOnClockPulses, hsum, ← s.sioRun_batches]
      rfl

/-! ## Edges (41_ctc.md R151 to R153) -/

theorem repeatPulse_one {α : Type} (f : α → α × List Event) (d : α) : repeatPulse f 1 d = f d := by
  rw [repeatPulse_succ, repeatPulse_zero, List.append_nil]

theorem ctcEdge_of_qualifying (i : CtcIx) (c : Ctc) :
    ctcEdge i (c.ch i).triggerEdgeHigh c = trigger cascadeDepth i c := by
  rw [ctcEdge, if_pos rfl]

theorem ctcEdge_of_other (i : CtcIx) (rising : Bool) (c : Ctc) (h : rising ≠ (c.ch i).triggerEdgeHigh) :
    ctcEdge i rising c = (c, []) := by
  rw [ctcEdge, if_neg h]

/-- Settles O22: one pulse of a batch is the trigger that a qualifying edge gives. -/
theorem externalPulsesAreQualifyingEdges : Obligations.ExternalPulsesAreQualifyingEdges := by
  unfold Obligations.ExternalPulsesAreQualifyingEdges
  refine ⟨fun s i => congrArg _ (s.ctcRun_silent s.ctc), fun s i n => ⟨_, _, rfl, rfl, ?_⟩⟩
  rw [ctcEdge_of_qualifying, exec_ctcExternalPulses, repeatPulse_succ, ← State.ctcRun_ctcRun]
  rfl

theorem trigger_of_unloaded (n : Nat) (j : CtcIx) (c : Ctc) (h : (c.ch j).counterInit = none) :
    trigger (n + 1) j c = (c, []) := by
  rw [trigger, if_pos h]

theorem trigger_of_timer (n : Nat) (j : CtcIx) (c : Ctc) (hl : (c.ch j).counterInit ≠ none)
    (ht : (c.ch j).timerMode = true) : trigger (n + 1) j c = (c.setCh j (c.ch j).start, []) := by
  rw [trigger, if_neg hl, if_pos ht]

theorem trigger_of_counter (n : Nat) (j : CtcIx) (c : Ctc) (hl : (c.ch j).counterInit ≠ none)
    (ht : (c.ch j).timerMode = false) :
    trigger (n + 1) j c = decrement (trigger n) j (c.setCh j (c.ch j).start) := by
  rw [trigger, if_neg hl, if_neg (by simp [ht])]

theorem decrement_of_above (cascade : CtcIx → Ctc → Ctc × List Event) (i : CtcIx) (c : Ctc)
    (h : 1 < (c.ch i).counter) :
    decrement cascade i c = (c.setCh i { c.ch i with counter := (c.ch i).counter - 1 }, []) := by
  rw [decrement, if_pos h]

theorem decrement_of_last (cascade : CtcIx → Ctc → Ctc × List Event) (i : CtcIx) (c : Ctc) (h : (c.ch i).counter ≤ 1) :
    decrement cascade i c = zeroCrossing cascade i c := by
  rw [decrement, if_neg (by omega)]

theorem zeroCrossing_of_free (cascade : CtcIx → Ctc → Ctc × List Event) (i : CtcIx) (c : Ctc)
    (h : (c.ch i).cascadeTo = none) :
    zeroCrossing cascade i c = (c.setCh i (c.ch i).reloaded, [.zeroCrossing i]) := by
  rcases zeroCrossing_spec cascade i c with ⟨-, he⟩ | ⟨j, hj, -⟩
  · exact he
  · simp [h] at hj

theorem zeroCrossing_of_linked (cascade : CtcIx → Ctc → Ctc × List Event) (i j : CtcIx) (c : Ctc)
    (h : (c.ch i).cascadeTo = some j) :
    zeroCrossing cascade i c = ((cascade j (c.setCh i (c.ch i).reloaded)).1,
      (cascade j (c.setCh i (c.ch i).reloaded)).2 ++ [.zeroCrossing i]) := by
  rcases zeroCrossing_spec cascade i c with ⟨hn, -⟩ | ⟨k, hk, he⟩
  · simp [hn] at h
  · obtain rfl : k = j := Option.some.inj (hk.symm.trans h)
    exact he

/-- A loaded channel reloads its constant. -/
theorem CtcChannel.reloaded_of_loaded (c : CtcChannel) (v : Nat) (h : c.counterInit = some v) :
    c.reloaded = { c with counter := v, interruptRequested := c.interruptRequested || c.interruptEnabled } := by
  rw [CtcChannel.reloaded, h]
  rfl

/-- Settles O21: an edge of the channel's polarity is a trigger, and a trigger is a start and, in counter mode, a
count. -/
theorem externalEdgeTriggersChannel : Obligations.ExternalEdgeTriggersChannel := by
  unfold Obligations.ExternalEdgeTriggersChannel
  intro s i rising
  constructor
  · intro h
    have hedge : ctcEdge i rising s.ctc = (s.ctc, []) := by
      by_cases hr : rising = (s.ctc.ch i).triggerEdgeHigh
      · rw [hr, ctcEdge_of_qualifying]
        exact trigger_of_unloaded 3 i s.ctc (h.resolve_left fun hne => hne hr)
      · exact ctcEdge_of_other i rising s.ctc hr
    rw [exec_ctcExternalEdge, hedge, State.ctcRun_silent]
  · rintro v rfl hv
    have hl : (s.ctc.ch i).counterInit ≠ none := by simp [hv]
    have hstart := (s.ctc.ch i).start_spec
    rw [exec_ctcExternalEdge, ctcEdge_of_qualifying, cascadeDepth]
    refine ⟨fun ht => ?_, fun ht hcount => ?_, fun ht hcount hfree => ?_⟩
    · rw [trigger_of_timer 3 i s.ctc hl ht, State.ctcRun_silent, hstart]
    · rw [trigger_of_counter 3 i s.ctc hl ht, hstart, decrement_of_above _ i _ (by simpa using hcount),
        Ctc.ch_setCh_self, Ctc.setCh_setCh, State.ctcRun_silent]
    · rw [trigger_of_counter 3 i s.ctc hl ht, hstart, decrement_of_last _ i _ (by simpa using hcount),
        zeroCrossing_of_free _ i _ (by simpa using hfree), Ctc.ch_setCh_self, Ctc.setCh_setCh,
        CtcChannel.reloaded_of_loaded { s.ctc.ch i with running := true, prescaler := _ } v hv]
      rfl

/-! ## One clock pulse without cascade links (41_ctc.md R146 to R150) -/

/-- The channel after one clock pulse, when no zero-crossing triggers it or is passed on. -/
def CtcChannel.afterPulse (c : CtcChannel) : CtcChannel :=
  match c.pendingLoadValue with
  | some v => c.commit v
  | none =>
    if c.running && c.timerMode then
      if c.period ≤ c.prescaler + 1 then
        if 1 < c.counter then { c with prescaler := 0, counter := c.counter - 1 }
        else { c.reloaded with prescaler := 0 }
      else { c with prescaler := c.prescaler + 1 }
    else c

/-- The pulse is the channel's zero-crossing, as a truth value. -/
def CtcChannel.crosses (c : CtcChannel) : Bool :=
  c.pendingLoadValue.isNone && c.running && c.timerMode && decide (c.period ≤ c.prescaler + 1) && decide (c.counter ≤ 1)

theorem CtcChannel.crosses_iff (c : CtcChannel) : c.crosses = true ↔ c.Crossing := by
  simp only [CtcChannel.crosses, CtcChannel.Crossing, Bool.and_eq_true, Option.isNone_iff_eq_none, decide_eq_true_eq,
    and_assoc]

/-- The event of a channel's pulse. -/
def pulseEvents (i : CtcIx) (c : CtcChannel) : List Event := if c.crosses then [.zeroCrossing i] else []

theorem CtcChannel.crosses_eq_false (c : CtcChannel) (h : ¬ c.Crossing) : c.crosses = false := by
  rw [← Bool.not_eq_true, CtcChannel.crosses_iff]
  exact h

theorem CtcChannel.afterPulse_of_pending (c : CtcChannel) (v : Nat) (h : c.pendingLoadValue = some v) :
    c.afterPulse = c.commit v := by
  rw [CtcChannel.afterPulse, h]

theorem CtcChannel.afterPulse_of_idle (c : CtcChannel) (hp : c.pendingLoadValue = none)
    (h : c.running = false ∨ c.timerMode = false) : c.afterPulse = c := by
  rcases h with h | h <;> simp [CtcChannel.afterPulse, hp, h]

section
variable (c : CtcChannel) (hp : c.pendingLoadValue = none) (hr : c.running = true) (ht : c.timerMode = true)
include hp hr ht

theorem CtcChannel.afterPulse_of_prescaling (h : c.prescaler + 1 < c.period) :
    c.afterPulse = { c with prescaler := c.prescaler + 1 } := by
  simp [CtcChannel.afterPulse, hp, hr, ht, Nat.not_le.mpr h]

theorem CtcChannel.afterPulse_of_counting (h : c.period ≤ c.prescaler + 1) (hc : 1 < c.counter) :
    c.afterPulse = { c with prescaler := 0, counter := c.counter - 1 } := by
  simp [CtcChannel.afterPulse, hp, hr, ht, h, hc]

end

theorem CtcChannel.afterPulse_of_crossing (c : CtcChannel) (h : c.Crossing) (v : Nat) (hv : c.counterInit = some v) :
    c.afterPulse = { c with
      prescaler := 0
      counter := v
      interruptRequested := c.interruptRequested || c.interruptEnabled } := by
  obtain ⟨hp, hr, ht, hperiod, hc⟩ := h
  simp [CtcChannel.afterPulse, hp, hr, ht, hperiod, Nat.not_lt.mpr hc, c.reloaded_of_loaded v hv]

/-- The pulse of a channel without a link changes that channel only. -/
theorem channelPulse_of_free (i : CtcIx) (c : Ctc) (hfree : (c.ch i).cascadeTo = none) :
    channelPulse i c = (c.setCh i (c.ch i).afterPulse, pulseEvents i (c.ch i)) := by
  rcases channelPulse_spec i c with ⟨v, hv, he⟩ | ⟨hp, hr, ht, hd, he⟩ | ⟨hp, hr, ht, hd, he⟩ | ⟨hp, hi, he⟩
  · have hno : ¬ (c.ch i).Crossing := fun h => by simp [h.1] at hv
    rw [he, (c.ch i).afterPulse_of_pending v hv, pulseEvents, (c.ch i).crosses_eq_false hno]
    rfl
  · have hno : ¬ (c.ch i).Crossing := fun ⟨_, _, _, hperiod, _⟩ => absurd hd (Nat.not_lt.mpr hperiod)
    rw [he, (c.ch i).afterPulse_of_prescaling hp hr ht hd, pulseEvents, (c.ch i).crosses_eq_false hno]
    rfl
  · rw [he]
    by_cases hc : 1 < (c.ch i).counter
    · have hno : ¬ (c.ch i).Crossing := fun ⟨_, _, _, _, hlast⟩ => absurd hc (Nat.not_lt.mpr hlast)
      rw [decrement_of_above _ i _ (by simpa using hc), (c.ch i).afterPulse_of_counting hp hr ht hd hc,
        pulseEvents, (c.ch i).crosses_eq_false hno, Ctc.ch_setCh_self, Ctc.setCh_setCh]
      rfl
    · have hcross : (c.ch i).crosses = true := (c.ch i).crosses_iff.mpr ⟨hp, hr, ht, hd, Nat.not_lt.mp hc⟩
      have hafter : (c.ch i).afterPulse = { (c.ch i).reloaded with prescaler := 0 } := by
        simp [CtcChannel.afterPulse, hp, hr, ht, hc, show (c.ch i).period ≤ (c.ch i).prescaler + 1 from hd]
      rw [decrement_of_last _ i _ (by simpa using hc), zeroCrossing_of_free _ i _ (by simpa using hfree),
        Ctc.ch_setCh_self, Ctc.setCh_setCh, pulseEvents, hcross, hafter]
      rfl
  · have hno : ¬ (c.ch i).Crossing := fun ⟨_, hr, ht, _⟩ => by
      rcases hi with hi | hi
      · simp [hr] at hi
      · simp [ht] at hi
    rw [he, (c.ch i).afterPulse_of_idle hp hi, pulseEvents, (c.ch i).crosses_eq_false hno, Ctc.setCh_ch]
    rfl

/-- The same, for a CTC whose channel `i` is still that of `c`. -/
theorem channelPulse_of_same {i : CtcIx} {c d : Ctc} (hd : d.ch i = c.ch i) (hfree : (c.ch i).cascadeTo = none) :
    channelPulse i d = (d.setCh i (c.ch i).afterPulse, pulseEvents i (c.ch i)) := by
  rw [← hd] at hfree ⊢
  exact channelPulse_of_free i d hfree

/-- One clock pulse of a CTC without links: every channel by itself, the events in the order of the channels. -/
theorem ctcPulse_of_free (c : Ctc) (hfree : ∀ i, (c.ch i).cascadeTo = none) :
    (ctcPulse c).1.vector = c.vector ∧ (∀ i, (ctcPulse c).1.ch i = (c.ch i).afterPulse) ∧
      (ctcPulse c).2 = pulseEvents .c0 (c.ch .c0) ++ (pulseEvents .c1 (c.ch .c1) ++
        (pulseEvents .c2 (c.ch .c2) ++ pulseEvents .c3 (c.ch .c3))) := by
  have h0 := channelPulse_of_free .c0 c (hfree .c0)
  have h1 (u) := channelPulse_of_same (i := .c1) (c := c) (d := c.setCh .c0 u) rfl (hfree .c1)
  have h2 (u v) := channelPulse_of_same (i := .c2) (c := c) (d := (c.setCh .c0 u).setCh .c1 v) rfl (hfree .c2)
  have h3 (u v w) := channelPulse_of_same (i := .c3) (c := c)
    (d := ((c.setCh .c0 u).setCh .c1 v).setCh .c2 w) rfl (hfree .c3)
  simp only [ctcPulse, andThen, h0, h1, h2, h3]
  exact ⟨rfl, fun i => by cases i <;> rfl, trivial⟩

theorem exec_ctcOnClockPulses_one (s : State) : exec (.ctcOnClockPulses 1) s = .next (s.ctcRun (ctcPulse s.ctc)) := by
  rw [exec_ctcOnClockPulses, show (1 : BitVec 32).toNat = 1 from rfl, repeatPulse_one]

theorem pulseEvents_sublist (i : CtcIx) (c : CtcChannel) : (pulseEvents i c).Sublist [.zeroCrossing i] := by
  unfold pulseEvents
  split
  · exact .refl _
  · exact List.nil_sublist _

theorem mem_pulseEvents (i j : CtcIx) (c : CtcChannel) :
    Event.zeroCrossing i ∈ pulseEvents j c ↔ i = j ∧ c.Crossing := by
  rw [← CtcChannel.crosses_iff, pulseEvents]
  split <;> simp_all

/-- Settles O19: each channel's pulse is `afterPulse`, case by case, and its event is there exactly when it crosses. -/
theorem clockPulseAdvancesChannels : Obligations.ClockPulseAdvancesChannels := by
  unfold Obligations.ClockPulseAdvancesChannels
  intro s hfree
  obtain ⟨hvector, hch, hevents⟩ := ctcPulse_of_free s.ctc hfree
  refine ⟨_, exec_ctcOnClockPulses_one s, rfl, hvector, fun i v hv => ?_, fun i hp hi => ?_, fun i hp hr ht h => ?_,
    fun i hp hr ht h hc => ?_, fun i v h hv => ?_, (ctcPulse s.ctc).2, rfl, ?_, fun i => ?_⟩
  · exact (hch i).trans ((s.ctc.ch i).afterPulse_of_pending v hv)
  · exact (hch i).trans ((s.ctc.ch i).afterPulse_of_idle hp hi)
  · exact (hch i).trans ((s.ctc.ch i).afterPulse_of_prescaling hp hr ht h)
  · exact (hch i).trans ((s.ctc.ch i).afterPulse_of_counting hp hr ht h hc)
  · exact (hch i).trans ((s.ctc.ch i).afterPulse_of_crossing h v hv)
  · rw [hevents]
    exact (pulseEvents_sublist .c0 _).append ((pulseEvents_sublist .c1 _).append
      ((pulseEvents_sublist .c2 _).append (pulseEvents_sublist .c3 _)))
  · rw [hevents, List.mem_append, List.mem_append, List.mem_append, mem_pulseEvents, mem_pulseEvents, mem_pulseEvents,
      mem_pulseEvents]
    cases i <;> simp

end Sys2Proof.Machine

/-! PROOFS. The period of a timer, and the links of a cascade (41_ctc.md R148, R150, R155; 60_exceptions.md R284). -/

namespace Sys2Proof.Machine

/-! ## A timer alone (60_exceptions.md R284) -/

/-- A channel that ignores clock pulses: no load pending, and stopped or in counter mode (41_ctc.md R147, R148). -/
def CtcChannel.Idle (c : CtcChannel) : Prop := c.pendingLoadValue = none ∧ (c.running = false ∨ c.timerMode = false)

theorem channelPulse_of_idle (i : CtcIx) (c : Ctc) (h : (c.ch i).Idle) : channelPulse i c = (c, []) := by
  obtain ⟨hp, hi⟩ := h
  rcases channelPulse_spec i c with ⟨v, hv, -⟩ | ⟨-, hr, ht, -⟩ | ⟨-, hr, ht, -⟩ | ⟨-, -, he⟩
  · simp [hp] at hv
  · simp [hr, ht] at hi
  · simp [hr, ht] at hi
  · exact he

/-- With the other channels idle, before and after it, the clock pulse is that of the one channel. -/
theorem ctcPulse_of_only (i : CtcIx) (c : Ctc) (hbefore : ∀ j, j ≠ i → (c.ch j).Idle)
    (hafter : ∀ j, j ≠ i → ((channelPulse i c).1.ch j).Idle) : ctcPulse c = channelPulse i c := by
  have hb (j : CtcIx) (hj : j ≠ i) : channelPulse j c = (c, []) := channelPulse_of_idle j c (hbefore j hj)
  have ha (j : CtcIx) (hj : j ≠ i) : channelPulse j (channelPulse i c).1 = ((channelPulse i c).1, []) :=
    channelPulse_of_idle j _ (hafter j hj)
  unfold ctcPulse andThen
  cases i with
  | c0 => simp [ha .c1, ha .c2, ha .c3]
  | c1 => simp [hb .c0, ha .c2, ha .c3]
  | c2 => simp [hb .c0, hb .c1, ha .c3]
  | c3 => simp [hb .c0, hb .c1, hb .c2]

/-- Channel `i` is a running timer without a link or a pending load, and the other channels are idle. -/
structure TimerAlone (c : Ctc) (i : CtcIx) : Prop where
  pending : (c.ch i).pendingLoadValue = none
  running : (c.ch i).running = true
  timer : (c.ch i).timerMode = true
  free : (c.ch i).cascadeTo = none
  others : ∀ j, j ≠ i → (c.ch j).Idle

/-- The CTC with channel `i` at a place in its period. -/
def Ctc.at (c : Ctc) (i : CtcIx) (prescaler counter : Nat) : Ctc :=
  c.setCh i { c.ch i with prescaler := prescaler, counter := counter }

theorem TimerAlone.at {c : Ctc} {i : CtcIx} (h : TimerAlone c i) (p n : Nat) : TimerAlone (c.at i p n) i := by
  obtain ⟨hp, hr, ht, hf, ho⟩ := h
  constructor
  case others =>
    intro j hj
    rw [Ctc.at, Ctc.ch_setCh_ne _ _ _ _ hj]
    exact ho j hj
  all_goals simpa only [Ctc.at, Ctc.ch_setCh_self]

theorem Ctc.at_ch (c : Ctc) (i : CtcIx) (p n : Nat) :
    (c.at i p n).ch i = { c.ch i with prescaler := p, counter := n } :=
  c.ch_setCh_self i _

theorem Ctc.at_self (c : Ctc) (i : CtcIx) : c.at i (c.ch i).prescaler (c.ch i).counter = c :=
  c.setCh_ch i

/-- A timer alone takes the clock pulse by itself. -/
theorem TimerAlone.pulse {c : Ctc} {i : CtcIx} (h : TimerAlone c i) :
    ctcPulse c = (c.setCh i (c.ch i).afterPulse, pulseEvents i (c.ch i)) := by
  have hpulse := channelPulse_of_free i c h.free
  rw [ctcPulse_of_only i c h.others, hpulse]
  intro j hj
  rw [hpulse]
  simpa only [Ctc.ch_setCh_ne _ _ _ _ hj] using h.others j hj

section
variable {c : Ctc} {i : CtcIx} (h : TimerAlone c i)
include h

/-- Within its prescaler period a pulse is one step of the prescaler. -/
theorem TimerAlone.pulse_prescaling {p n : Nat} (hp : p + 1 < (c.ch i).period) :
    ctcPulse (c.at i p n) = (c.at i (p + 1) n, []) := by
  have ha := h.at p n
  have hch := c.at_ch i p n
  have hno : ¬ ((c.at i p n).ch i).Crossing := by
    rintro ⟨-, -, -, hperiod, -⟩
    rw [hch] at hperiod
    exact absurd hp (Nat.not_lt.mpr hperiod)
  rw [ha.pulse, CtcChannel.afterPulse_of_prescaling _ ha.pending ha.running ha.timer (by rw [hch]; exact hp),
    pulseEvents, CtcChannel.crosses_eq_false _ hno, hch, Ctc.at, Ctc.setCh_setCh]
  rfl

/-- At the end of its prescaler period a pulse counts. -/
theorem TimerAlone.pulse_counting {p n : Nat} (hp : (c.ch i).period ≤ p + 1) (hn : 1 < n) :
    ctcPulse (c.at i p n) = (c.at i 0 (n - 1), []) := by
  have ha := h.at p n
  have hch := c.at_ch i p n
  have hno : ¬ ((c.at i p n).ch i).Crossing := by
    rintro ⟨-, -, -, -, hlast⟩
    rw [hch] at hlast
    exact absurd hn (Nat.not_lt.mpr hlast)
  rw [ha.pulse, CtcChannel.afterPulse_of_counting _ ha.pending ha.running ha.timer (by rw [hch]; exact hp)
    (by rw [hch]; exact hn), pulseEvents, CtcChannel.crosses_eq_false _ hno, hch, Ctc.at, Ctc.setCh_setCh]
  rfl

/-- At the end of its period a pulse is the zero-crossing. -/
theorem TimerAlone.pulse_crossing {p v : Nat} (hp : (c.ch i).period ≤ p + 1) (hv : (c.ch i).counterInit = some v) :
    ctcPulse (c.at i p 1) =
      (c.setCh i { c.ch i with
        prescaler := 0
        counter := v
        interruptRequested := (c.ch i).interruptRequested || (c.ch i).interruptEnabled }, [.zeroCrossing i]) := by
  have ha := h.at p 1
  have hch := c.at_ch i p 1
  have hcross : ((c.at i p 1).ch i).Crossing :=
    ⟨ha.pending, ha.running, ha.timer, by rw [hch]; exact hp, by rw [hch]⟩
  rw [ha.pulse, CtcChannel.afterPulse_of_crossing _ hcross v (by rw [hch]; exact hv), pulseEvents,
    (CtcChannel.crosses_iff _).mpr hcross, hch, Ctc.at, Ctc.setCh_setCh]
  rfl

/-- A batch within one prescaler period. -/
theorem TimerAlone.pulses_prescaling (n p : Nat) (hp : p < (c.ch i).period) :
    repeatPulse ctcPulse p (c.at i 0 n) = (c.at i p n, []) := by
  induction p with
  | zero => rfl
  | succ p ih => rw [repeatPulse_add, ih (by omega), repeatPulse_one, h.pulse_prescaling hp]; rfl

/-- A batch of whole prescaler periods, short of the zero-crossing. -/
theorem TimerAlone.pulses_counting (v a : Nat) (ha : a < v) :
    repeatPulse ctcPulse (a * (c.ch i).period) (c.at i 0 v) = (c.at i 0 (v - a), []) := by
  have hperiod : 0 < (c.ch i).period := by
    unfold CtcChannel.period
    split <;> decide
  induction a with
  | zero => rw [Nat.zero_mul]; rfl
  | succ a ih =>
    have hsplit : (a + 1) * (c.ch i).period = a * (c.ch i).period + ((c.ch i).period - 1 + 1) := by
      rw [Nat.add_mul, Nat.one_mul]
      omega
    rw [hsplit, repeatPulse_add, ih (by omega), repeatPulse_add, h.pulses_prescaling _ _ (by omega), repeatPulse_one,
      h.pulse_counting (by omega) (by omega)]
    rfl

/-- A batch short of the whole period leaves the timer within it, without an event (60_exceptions.md R284). -/
theorem TimerAlone.pulses_within {v k : Nat} (hk : k < v * (c.ch i).period) :
    ∃ p n, repeatPulse ctcPulse k (c.at i 0 v) = (c.at i p n, []) := by
  have hperiod : 0 < (c.ch i).period := Nat.pos_of_mul_pos_left (Nat.zero_lt_of_lt hk)
  have hdiv : k / (c.ch i).period < v := (Nat.div_lt_iff_lt_mul hperiod).mpr hk
  refine ⟨k % (c.ch i).period, v - k / (c.ch i).period, ?_⟩
  conv_lhs => rw [← Nat.div_add_mod' k (c.ch i).period]
  rw [repeatPulse_add, h.pulses_counting v _ hdiv, h.pulses_prescaling _ _ (Nat.mod_lt _ hperiod)]
  rfl

/-- The batch of the whole period ends with the zero-crossing, just reloaded. -/
theorem TimerAlone.pulses_period {v : Nat} (hv : (c.ch i).counterInit = some v) (hpos : 1 ≤ v) :
    repeatPulse ctcPulse (v * (c.ch i).period) (c.at i 0 v) =
      (c.setCh i { c.ch i with
        prescaler := 0
        counter := v
        interruptRequested := (c.ch i).interruptRequested || (c.ch i).interruptEnabled }, [.zeroCrossing i]) := by
  have hperiod : 0 < (c.ch i).period := by
    unfold CtcChannel.period
    split <;> decide
  have hsplit : v * (c.ch i).period = (v - 1) * (c.ch i).period + ((c.ch i).period - 1 + 1) := by
    obtain ⟨w, rfl⟩ : ∃ w, v = w + 1 := ⟨v - 1, by omega⟩
    rw [Nat.add_mul, Nat.one_mul, Nat.add_sub_cancel]
    omega
  rw [hsplit, repeatPulse_add, h.pulses_counting v _ (by omega), repeatPulse_add, h.pulses_prescaling _ _ (by omega),
    repeatPulse_one, Nat.sub_sub_self hpos, h.pulse_crossing (by omega) hv]
  rfl

end

theorem CtcChannel.period_le (c : CtcChannel) : c.period ≤ 256 := by
  unfold CtcChannel.period
  split <;> omega

/-- Settles O20: the timer steps alone through its period, prescaler period by prescaler period. -/
theorem timerPeriodIsConstantTimesPrescaler : Obligations.TimerPeriodIsConstantTimesPrescaler := by
  unfold Obligations.TimerPeriodIsConstantTimesPrescaler
  intro s i v hpos hmax hinit hcounter hprescaler hpending hrunning htimer hfree hothers
  have h : TimerAlone s.ctc i := ⟨hpending, hrunning, htimer, hfree, hothers⟩
  have hat : s.ctc.at i 0 v = s.ctc := by rw [← hprescaler, ← hcounter, Ctc.at_self]
  have hbound : v * (s.ctc.ch i).period ≤ 256 * 256 := Nat.mul_le_mul hmax (s.ctc.ch i).period_le
  have hbatch (k : Nat) (hk : k ≤ v * (s.ctc.ch i).period) : exec (.ctcOnClockPulses (BitVec.ofNat 32 k)) s =
      .next (s.ctcRun (repeatPulse ctcPulse k (s.ctc.at i 0 v))) := by
    rw [exec_ctcOnClockPulses, BitVec.toNat_ofNat, Nat.mod_eq_of_lt (by omega), hat]
  constructor
  · intro k hk
    obtain ⟨p, n, hrun⟩ := h.pulses_within hk
    refine ⟨_, (hbatch k hk.le).trans (by rw [hrun]), List.append_nil _, ?_⟩
    rw [State.ctcRun_ctc, Ctc.at_ch]
  · rw [hbatch _ le_rfl, h.pulses_period hinit hpos, ← hprescaler, ← hcounter]
    rfl

/-! ## Links (41_ctc.md R155) -/

/-- Over all 625 wirings: a channel that five links lead to, four lead to. -/
theorem leadsTo_five_ofLinks :
    (CtcIx.all.all fun i => CtcIx.all.all fun j => cascadeEnds.all fun t0 => cascadeEnds.all fun t1 =>
      cascadeEnds.all fun t2 => cascadeEnds.all fun t3 =>
        !(Ctc.ofLinks t0 t1 t2 t3).leadsTo j 5 i || (Ctc.ofLinks t0 t1 t2 t3).leadsTo j 4 i) = true := by
  set_option maxRecDepth 100000 in decide

/-- Four links lead as far as any number: there are four channels. -/
theorem Ctc.leadsTo_four_of_five (c : Ctc) (i j : CtcIx) (h : c.leadsTo j 5 i = true) : c.leadsTo j 4 i = true := by
  have htable := leadsTo_five_ofLinks
  simp only [List.all_eq_true] at htable
  have hentry := htable i (CtcIx.mem_all _) j (CtcIx.mem_all _) c.ch0.cascadeTo (mem_cascadeEnds _) c.ch1.cascadeTo
    (mem_cascadeEnds _) c.ch2.cascadeTo (mem_cascadeEnds _) c.ch3.cascadeTo (mem_cascadeEnds _)
  have hlinks (k : CtcIx) :
      ((Ctc.ofLinks c.ch0.cascadeTo c.ch1.cascadeTo c.ch2.cascadeTo c.ch3.cascadeTo).ch k).cascadeTo =
      (c.ch k).cascadeTo := by
    cases k <;> rfl
  rwa [Ctc.leadsTo_congr c _ hlinks, Ctc.leadsTo_congr c _ hlinks, h, Bool.not_true, Bool.false_or] at hentry

theorem Ctc.reaches_of_leadsTo (c : Ctc) (j : CtcIx) (n : Nat) (i : CtcIx) (h : c.leadsTo j n i = true) :
    c.Reaches i j := by
  induction n generalizing i with
  | zero =>
    obtain rfl : i = j := of_decide_eq_true h
    exact .here i
  | succ n ih =>
    rw [Ctc.leadsTo, Bool.or_eq_true, decide_eq_true_iff] at h
    rcases h with rfl | h
    · exact .here i
    · split at h
      · next k hk => exact .link i k j hk (ih k h)
      · cases h

theorem Ctc.leadsTo_of_reaches (c : Ctc) {i j : CtcIx} (h : c.Reaches i j) : c.leadsTo j 4 i = true := by
  induction h with
  | here a => rw [Ctc.leadsTo, decide_eq_true rfl, Bool.true_or]
  | link a k b hk _ ih =>
    refine c.leadsTo_four_of_five a b ?_
    rw [Ctc.leadsTo, hk, Bool.or_eq_true]
    exact .inr ih

/-- The search over four links finds exactly the channels reached (41_ctc.md R155). -/
theorem Ctc.leadsTo_iff_reaches (c : Ctc) (i j : CtcIx) : c.leadsTo j 4 i = true ↔ c.Reaches i j :=
  ⟨c.reaches_of_leadsTo j 4 i, c.leadsTo_of_reaches⟩

/-- The two ends of a link between different channels. -/
theorem Ctc.link_of_ne (c : Ctc) {a b : CtcIx} (h : a ≠ b) :
    c.link a b =
      (c.setCh a { c.ch a with cascadeTo := some b }).setCh b { c.ch b with cascadeFrom := some a } := by
  rw [Ctc.link, Ctc.ch_setCh_ne _ _ _ _ h.symm]

theorem exec_ctcConnectCascade (a b : CtcIx) (s : State) :
    exec (.ctcConnectCascade a b) s =
      if s.ctcOperated || !s.ctc.linkAllowed a b then .refused .badCascade
      else .next ((s.setCtc (s.ctc.link a b)).returning .unit) := rfl

/-- Settles O24: a link is made exactly when no CTC operation has run and `linkAllowed` holds, clause by clause. -/
theorem connectCascadeLinksOrRefuses : Obligations.ConnectCascadeLinksOrRefuses := by
  unfold Obligations.ConnectCascadeLinksOrRefuses
  intro s a b
  rw [exec_ctcConnectCascade]
  constructor
  · intro hop hne hto hfrom hreach
    have hlead : s.ctc.leadsTo a 4 b = false := by
      rw [← Bool.not_eq_true, Ctc.leadsTo_iff_reaches]
      exact hreach
    have hallowed : s.ctc.linkAllowed a b = true := (s.ctc.linkAllowed_iff a b).mpr ⟨hne, hto, hfrom, hlead⟩
    rw [if_neg (by simp [hop, hallowed]), s.ctc.link_of_ne hne]
    rfl
  · intro h
    have hrefused : (s.ctcOperated || !s.ctc.linkAllowed a b) = true := by
      rw [Bool.or_eq_true, Bool.not_eq_true', ← Bool.not_eq_true, Ctc.linkAllowed_iff, ← Bool.not_eq_true,
        Ctc.leadsTo_iff_reaches]
      tauto
    rw [if_pos hrefused]

end Sys2Proof.Machine

/-! PROOFS. The zero-crossing of a cascaded channel (41_ctc.md R146 to R151, R154). -/

namespace Sys2Proof.Machine

/-! ## The bound of a cascade (41_ctc.md R154; log 10) -/

/-- A bound that the links below a channel do not reach is as good as the next one. -/
theorem trigger_succ_of_follow (n : Nat) (j : CtcIx) (c : Ctc) (h : c.follow n j = none) :
    trigger (n + 1) j c = trigger n j c := by
  induction n generalizing j c with
  | zero => cases h
  | succ n ih =>
    rcases trigger_spec n j c with ⟨hl, he⟩ | ⟨hl, ht, he⟩ | ⟨hl, ht, he⟩
    · rw [he, trigger_of_unloaded (n + 1) j c hl]
    · rw [he, trigger_of_timer (n + 1) j c hl ht]
    · rw [he, trigger_of_counter (n + 1) j c hl ht]
      have hlinks (v : CtcChannel) (hv : v.cascadeTo = (c.ch j).cascadeTo) (i : CtcIx) :
          ((c.setCh j v).ch i).cascadeTo = (c.ch i).cascadeTo := by
        rw [Ctc.ch_setCh]
        split
        · next hi => rw [hi, hv]
        · rfl
      have hstart : (c.ch j).start.cascadeTo = (c.ch j).cascadeTo := by rw [CtcChannel.start_spec]
      rcases decrement_spec (trigger n) j (c.setCh j (c.ch j).start) with ⟨hc, hd⟩ | ⟨hc, hd⟩
      · rw [hd, decrement_of_above _ j _ hc]
      · rw [hd, decrement_of_last _ j _ hc]
        rcases zeroCrossing_spec (trigger n) j (c.setCh j (c.ch j).start) with ⟨hf, hz⟩ | ⟨k, hk, hz⟩
        · rw [hz, zeroCrossing_of_free _ j _ hf]
        · have hfollow : c.follow n k = none := by
            have hto : (c.ch j).cascadeTo = some k := by rw [← hk, hlinks _ hstart]
            rwa [Ctc.follow, hto] at h
          have hcongr := Ctc.follow_congr c
            ((c.setCh j (c.ch j).start).setCh j ((c.setCh j (c.ch j).start).ch j).reloaded)
            (fun i => by
              rw [Ctc.setCh_setCh]
              exact hlinks _ (by rw [CtcChannel.reloaded, Ctc.ch_setCh_self]; exact hstart) i) n k
          rw [hz, zeroCrossing_of_linked _ j k _ hk, ih k _ (hcongr.trans hfollow)]

/-- The links below a successor are one shorter than those below the channel. -/
theorem Ctc.follow_three_of_wiredOk {c : Ctc} (h : c.WiredOk) {i j : CtcIx} (hto : (c.ch i).cascadeTo = some j) :
    c.follow 3 j = none := by
  have hfour := h.2 i (CtcIx.mem_all i)
  rwa [Ctc.follow, hto] at hfour

/-- Links that can be made close no cycle, so that no channel is its own successor. -/
theorem Ctc.ne_of_wiredOk {c : Ctc} (h : c.WiredOk) {i j : CtcIx} (hto : (c.ch i).cascadeTo = some j) : i ≠ j := by
  rintro rfl
  have hall (n : Nat) : c.follow n i ≠ none := by
    induction n with
    | zero => nofun
    | succ n ih => rwa [Ctc.follow, hto]
  exact hall 4 (h.2 i (CtcIx.mem_all i))

/-! ## What a trigger keeps of each channel -/

theorem CtcChannel.pendingLoadValue_relation :
    CountingRelation fun c d => d.pendingLoadValue = c.pendingLoadValue where
  refl _ := rfl
  trans h k := k.trans h
  start c _ := by rw [CtcChannel.start_spec]
  count _ _ := rfl
  reload _ := rfl

/-- Counting makes no channel heed clock pulses: only a loaded timer would, and it is not one that ignores them. -/
theorem CtcChannel.ignoresPulses_relation : CountingRelation fun c d => c.IgnoresPulses → d.IgnoresPulses where
  refl _ := id
  trans h k := k ∘ h
  start c hl := by
    rintro ⟨hp, ht | ⟨-, hn⟩⟩
    · rw [CtcChannel.start_spec]
      exact ⟨hp, .inl ht⟩
    · exact absurd hn hl
  count _ _ := id
  reload _ := id

theorem CtcChannel.IgnoresPulses.idle {c : CtcChannel} (h : c.IgnoresPulses) : c.Idle := by
  obtain ⟨hp, ht | ⟨hr, -⟩⟩ := h
  · exact ⟨hp, .inr ht⟩
  · exact ⟨hp, .inl hr⟩

/-- A channel that ignores clock pulses ignores them after the pulse of any channel too. -/
theorem channelPulse_ignores (i k : CtcIx) (c : Ctc) (h : (c.ch k).IgnoresPulses) :
    ((channelPulse i c).1.ch k).IgnoresPulses := by
  by_cases hk : k = i
  · subst hk
    rw [channelPulse_of_idle k c h.idle]
    exact h
  · have hother (v : CtcChannel) : ((c.setCh i v).ch k).IgnoresPulses := by
      rw [Ctc.ch_setCh_ne _ _ _ _ hk]
      exact h
    rcases channelPulse_spec i c with ⟨v, -, he⟩ | ⟨-, -, -, -, he⟩ | ⟨-, -, -, -, he⟩ | ⟨-, -, he⟩ <;> rw [he]
    · exact hother _
    · exact hother _
    · exact CtcChannel.ignoresPulses_relation.decrement (CtcChannel.ignoresPulses_relation.trigger _) i _ k (hother _)
    · exact h

/-! ## One clock pulse with two channels that heed it (41_ctc.md R146) -/

/-- With the others ignoring clock pulses, a clock pulse is that of the one channel. -/
theorem ctcPulse_of_one (i : CtcIx) (c : Ctc) (h : ∀ k, k ≠ i → (c.ch k).IgnoresPulses) :
    ctcPulse c = channelPulse i c :=
  ctcPulse_of_only i c (fun k hk => (h k hk).idle) fun k hk => (channelPulse_ignores i k c (h k hk)).idle

/-- With the others ignoring clock pulses, a clock pulse is that of the lower channel and then of the higher one. -/
theorem ctcPulse_of_two (i j : CtcIx) (hij : i.toNat < j.toNat) (c : Ctc)
    (h : ∀ k, k ≠ i → k ≠ j → (c.ch k).IgnoresPulses) : ctcPulse c = andThen (channelPulse i) (channelPulse j) c := by
  have h0 (k : CtcIx) (hi : k ≠ i) (hj : k ≠ j) := channelPulse_of_idle k c (h k hi hj).idle
  have h1 (k : CtcIx) (hi : k ≠ i) (hj : k ≠ j) :=
    channelPulse_of_idle k (channelPulse i c).1 (channelPulse_ignores i k c (h k hi hj)).idle
  have h2 (k : CtcIx) (hi : k ≠ i) (hj : k ≠ j) :=
    channelPulse_of_idle k (channelPulse j (channelPulse i c).1).1
      (channelPulse_ignores j k _ (channelPulse_ignores i k c (h k hi hj))).idle
  unfold ctcPulse andThen
  cases i <;> cases j
  case c0.c1 => simp [h2 .c2, h2 .c3]
  case c0.c2 => simp [h1 .c1, h2 .c3]
  case c0.c3 => simp [h1 .c1, h1 .c2]
  case c1.c2 => simp [h0 .c0, h2 .c3]
  case c1.c3 => simp [h0 .c0, h1 .c2]
  case c2.c3 => simp [h0 .c0, h0 .c1]
  all_goals exact absurd hij (by decide)

/-! ## The crossing -/

/-- The channel after its zero-crossing at a clock pulse (41_ctc.md R148, R150). -/
def CtcChannel.crossed (c : CtcChannel) (v : Nat) : CtcChannel :=
  { c with
    prescaler := 0
    counter := v
    interruptRequested := c.interruptRequested || c.interruptEnabled }

/-- A crossing timer with a successor reloads, requests, triggers its successor and emits its event last. -/
theorem channelPulse_of_linkedCrossing {i j : CtcIx} {c : Ctc} {v : Nat} (h : (c.ch i).Crossing)
    (hv : (c.ch i).counterInit = some v) (hto : (c.ch i).cascadeTo = some j) :
    channelPulse i c =
      ((trigger cascadeDepth j (c.setCh i ((c.ch i).crossed v))).1,
        (trigger cascadeDepth j (c.setCh i ((c.ch i).crossed v))).2 ++ [.zeroCrossing i]) := by
  obtain ⟨hp, hr, ht, hperiod, hc⟩ := h
  rcases channelPulse_spec i c with ⟨w, hw, -⟩ | ⟨-, -, -, hd, -⟩ | ⟨-, -, -, -, he⟩ | ⟨-, hi, -⟩
  · simp [hp] at hw
  · exact absurd hd (Nat.not_lt.mpr hperiod)
  · rw [he, decrement_of_last _ i _ (by simpa using hc), zeroCrossing_of_linked _ i j _ (by simpa using hto),
      Ctc.ch_setCh_self, Ctc.setCh_setCh, CtcChannel.reloaded_of_loaded { c.ch i with prescaler := 0 } v hv]
    rfl
  · simp [hr, ht] at hi

theorem channelPulse_of_pending {j : CtcIx} {c : Ctc} {w : Nat} (h : (c.ch j).pendingLoadValue = some w) :
    channelPulse j c = (c.setCh j ((c.ch j).loadedWith w), []) := by
  rw [channelPulse, h]
  rfl

theorem channelPulse_of_prescaling {j : CtcIx} {c : Ctc} (hp : (c.ch j).pendingLoadValue = none)
    (hr : (c.ch j).running = true) (ht : (c.ch j).timerMode = true) (h : (c.ch j).prescaler + 1 < (c.ch j).period) :
    channelPulse j c = (c.setCh j { c.ch j with prescaler := (c.ch j).prescaler + 1 }, []) := by
  rw [channelPulse, hp, hr, ht]
  exact if_neg (Nat.not_le.mpr h)

theorem CtcChannel.one_lt_period (c : CtcChannel) : 0 + 1 < c.period := by
  unfold CtcChannel.period
  split <;> decide

theorem Ctc.setCh_comm (c : Ctc) {i j : CtcIx} (h : i ≠ j) (u v : CtcChannel) :
    (c.setCh i u).setCh j v = (c.setCh j v).setCh i u := by
  refine Ctc.eq_of_ch _ _ (by simp only [Ctc.setCh_vector]) fun k => ?_
  simp only [Ctc.ch_setCh]
  split
  · next hk => rw [if_neg (hk ▸ h.symm)]
  · rfl

/-- A trigger of a running timer changes nothing. -/
theorem trigger_of_runningTimer (n : Nat) (j : CtcIx) (c : Ctc) (hr : (c.ch j).running = true)
    (ht : (c.ch j).timerMode = true) : trigger (n + 1) j c = (c, []) := by
  by_cases hl : (c.ch j).counterInit = none
  · exact trigger_of_unloaded n j c hl
  · rw [trigger_of_timer n j c hl ht, CtcChannel.start, if_pos hr, Ctc.setCh_ch]

/-- A run of the CTC with an event after those of another run, whatever the CTC was before. -/
theorem State.ctcRun_withEvent (s : State) (c d : Ctc) (r : Ctc × List Event) (e : Event) :
    s.ctcRun (d, r.2 ++ [e]) =
      { ({ s with ctc := c } : State).ctcRun r with
        ctc := d
        trace := (({ s with ctc := c } : State).ctcRun r).trace ++ [e] } := by
  simp only [State.ctcRun, State.emit, State.setCtc, State.markCtc, State.returning, List.append_assoc]

theorem exec_ctcExternalPulses_one (i : CtcIx) (s : State) :
    exec (.ctcExternalPulses i 1) s = .next (s.ctcRun (trigger cascadeDepth i s.ctc)) := by
  rw [exec_ctcExternalPulses, repeatPulse_one]

section
variable {s : State} {i j : CtcIx} {v : Nat} (hwired : s.ctc.WiredOk) (hcross : (s.ctc.ch i).Crossing)
  (hv : (s.ctc.ch i).counterInit = some v) (hto : (s.ctc.ch i).cascadeTo = some j)
  (hothers : ∀ k, k ≠ i → k ≠ j → (s.ctc.ch k).IgnoresPulses)
include hcross hv hto hothers

/-- The successor ignores clock pulses: the one pulse it takes is its trigger. -/
theorem ctcPulse_crossing_of_ignoring (hj : (s.ctc.ch j).IgnoresPulses) :
    ctcPulse s.ctc =
      ((trigger cascadeDepth j (s.ctc.setCh i ((s.ctc.ch i).crossed v))).1,
        (trigger cascadeDepth j (s.ctc.setCh i ((s.ctc.ch i).crossed v))).2 ++ [.zeroCrossing i]) := by
  rw [← channelPulse_of_linkedCrossing hcross hv hto]
  refine ctcPulse_of_one i s.ctc fun k hk => ?_
  by_cases hkj : k = j
  · exact hkj ▸ hj
  · exact hothers k hk hkj

include hwired

/-- A lower successor takes its own pulse first. -/
theorem ctcPulse_crossing_of_lower {w : CtcChannel} (hlt : j.toNat < i.toNat)
    (hj : channelPulse j s.ctc = (s.ctc.setCh j w, [])) :
    ctcPulse s.ctc =
      ((trigger cascadeDepth j ((s.ctc.setCh i ((s.ctc.ch i).crossed v)).setCh j w)).1,
        (trigger cascadeDepth j ((s.ctc.setCh i ((s.ctc.ch i).crossed v)).setCh j w)).2 ++ [.zeroCrossing i]) := by
  have hne := Ctc.ne_of_wiredOk hwired hto
  have hch : (s.ctc.setCh j w).ch i = s.ctc.ch i := Ctc.ch_setCh_ne _ _ _ _ hne
  have hcrossing := channelPulse_of_linkedCrossing (c := s.ctc.setCh j w) (by rw [hch]; exact hcross)
    (by rw [hch]; exact hv) (by rw [hch]; exact hto)
  rw [hch, ← Ctc.setCh_comm _ hne] at hcrossing
  rw [ctcPulse_of_two j i hlt s.ctc fun k hkj hki => hothers k hki hkj, andThen, hj, hcrossing]
  rfl

omit hwired in
/-- A higher successor takes its own pulse after its trigger. -/
theorem ctcPulse_crossing_of_higher {d : Ctc} {es : List Event} {w : CtcChannel} (hlt : i.toNat < j.toNat)
    (ht : trigger cascadeDepth j (s.ctc.setCh i ((s.ctc.ch i).crossed v)) = (d, es))
    (hj : channelPulse j d = (d.setCh j w, [])) : ctcPulse s.ctc = (d.setCh j w, es ++ [.zeroCrossing i]) := by
  rw [ctcPulse_of_two i j hlt s.ctc hothers, andThen, channelPulse_of_linkedCrossing hcross hv hto, ht, hj,
    List.append_nil]

end

/-- Settles O23: the crossing channel's pulse is the trigger of its successor with its own event last, and the
successor's own step falls before or after it. -/
theorem cascadePassesOnePulse : Obligations.CascadePassesOnePulse := by
  unfold Obligations.CascadePassesOnePulse
  constructor
  · intro s i j v hwired hv ht hc hto
    have hl : (s.ctc.ch i).counterInit ≠ none := by simp [hv]
    have hlinks (k : CtcIx) :
        ((s.ctc.setCh i ((s.ctc.ch i).start.reloaded)).ch k).cascadeTo = (s.ctc.ch k).cascadeTo :=
      (Ctc.each_setCh .refl (CtcChannel.counts_relation.trans (CtcChannel.counts_relation.start _ hl)
        (CtcChannel.counts_relation.reload _)) k).links.1
    have hrec : (s.ctc.ch i).start.reloaded = { s.ctc.ch i with
        running := true
        prescaler := if (s.ctc.ch i).running then (s.ctc.ch i).prescaler else 0
        counter := v
        interruptRequested := (s.ctc.ch i).interruptRequested || (s.ctc.ch i).interruptEnabled } := by
      rw [CtcChannel.start_spec, CtcChannel.reloaded_of_loaded { s.ctc.ch i with running := true, prescaler := _ } v hv]
    have hstart := (s.ctc.ch i).start_spec
    have htrigger : trigger cascadeDepth i s.ctc =
        ((trigger cascadeDepth j (s.ctc.setCh i (s.ctc.ch i).start.reloaded)).1,
          (trigger cascadeDepth j (s.ctc.setCh i (s.ctc.ch i).start.reloaded)).2 ++ [.zeroCrossing i]) := by
      have hfollow : (s.ctc.setCh i (s.ctc.ch i).start.reloaded).follow 3 j = none :=
        (Ctc.follow_congr s.ctc _ hlinks 3 j).trans (Ctc.follow_three_of_wiredOk hwired hto)
      rw [cascadeDepth, trigger_succ_of_follow 3 j _ hfollow, trigger_of_counter 3 i s.ctc hl ht,
        decrement_of_last _ i _ (by rw [Ctc.ch_setCh_self, hstart]; exact hc),
        zeroCrossing_of_linked _ i j _ (by rw [Ctc.ch_setCh_self, hstart]; exact hto), Ctc.ch_setCh_self,
        Ctc.setCh_setCh]
    rw [← hrec]
    refine ⟨_, exec_ctcExternalPulses_one j _, ?_⟩
    rw [exec_ctcExternalPulses_one, htrigger]
    exact congrArg _ (s.ctcRun_withEvent _ _ _ _)
  · rintro s r i j v hwired hcross hv hto hothers rfl
    have hne := Ctc.ne_of_wiredOk hwired hto
    have hji : ((s.ctc.setCh i ((s.ctc.ch i).crossed v)).ch j) = s.ctc.ch j := Ctc.ch_setCh_ne _ _ _ _ hne.symm
    have hlt_or : i.toNat < j.toNat ∨ j.toNat < i.toNat := by
      revert hne
      clear * -
      cases i <;> cases j <;> decide
    refine ⟨fun hj => ⟨_, exec_ctcExternalPulses_one j _, ?_⟩, fun w hw hlt => ⟨_, exec_ctcExternalPulses_one j _, ?_⟩,
      fun w hw hlt => ⟨_, exec_ctcExternalPulses_one j _, ?_⟩, fun hp ht hr hl => ?_, fun hp ht hr hperiod => ?_⟩
    · rw [exec_ctcOnClockPulses_one, ctcPulse_crossing_of_ignoring hcross hv hto hothers hj]
      exact congrArg _ (s.ctcRun_withEvent _ _ _ _)
    · rw [exec_ctcOnClockPulses_one,
        ctcPulse_crossing_of_lower hwired hcross hv hto hothers hlt (channelPulse_of_pending hw)]
      exact congrArg _ (s.ctcRun_withEvent _ _ _ _)
    · have hpend :
          ((trigger cascadeDepth j (s.ctc.setCh i ((s.ctc.ch i).crossed v))).1.ch j).pendingLoadValue = some w := by
        rw [CtcChannel.pendingLoadValue_relation.trigger _ j _ j, hji, hw]
      rw [exec_ctcOnClockPulses_one,
        ctcPulse_crossing_of_higher hcross hv hto hothers hlt rfl (channelPulse_of_pending hpend)]
      exact congrArg _ (s.ctcRun_withEvent _ _ _ _)
    · have hstarted : (s.ctc.ch j).start = { s.ctc.ch j with running := true, prescaler := 0 } := by
        rw [CtcChannel.start, if_neg (by simp [hr])]
      rw [exec_ctcOnClockPulses_one]
      rcases hlt_or with hlt | hlt
      · have htrigger : trigger cascadeDepth j (s.ctc.setCh i ((s.ctc.ch i).crossed v)) =
            ((s.ctc.setCh i ((s.ctc.ch i).crossed v)).setCh j (s.ctc.ch j).start, []) := by
          rw [cascadeDepth, trigger_of_timer 3 j _ (by rw [hji]; exact hl) (by rw [hji]; exact ht), hji]
        have hstep := channelPulse_of_prescaling
          (c := (s.ctc.setCh i ((s.ctc.ch i).crossed v)).setCh j (s.ctc.ch j).start) (j := j)
        rw [Ctc.ch_setCh_self, hstarted] at hstep
        rw [hstarted] at htrigger
        rw [ctcPulse_crossing_of_higher hcross hv hto hothers hlt htrigger
          (hstep hp rfl ht (CtcChannel.one_lt_period _)),
          Ctc.setCh_setCh, if_pos hlt]
        rfl
      · have hidle : channelPulse j s.ctc = (s.ctc.setCh j (s.ctc.ch j), []) := by
          rw [channelPulse_of_idle j s.ctc ⟨hp, .inl hr⟩, Ctc.setCh_ch]
        rw [ctcPulse_crossing_of_lower hwired hcross hv hto hothers hlt hidle, cascadeDepth,
          trigger_of_timer 3 j _ (by rw [Ctc.ch_setCh_self]; exact hl) (by rw [Ctc.ch_setCh_self]; exact ht),
          Ctc.ch_setCh_self, Ctc.setCh_setCh, hstarted, if_neg (Nat.not_lt.mpr hlt.le)]
        rfl
    · rw [exec_ctcOnClockPulses_one]
      rcases hlt_or with hlt | hlt
      · have htrigger : trigger cascadeDepth j (s.ctc.setCh i ((s.ctc.ch i).crossed v)) =
            (s.ctc.setCh i ((s.ctc.ch i).crossed v), []) :=
          trigger_of_runningTimer 3 j _ (by rw [hji]; exact hr) (by rw [hji]; exact ht)
        have hstep := channelPulse_of_prescaling (c := s.ctc.setCh i ((s.ctc.ch i).crossed v)) (j := j)
        rw [hji] at hstep
        rw [ctcPulse_crossing_of_higher hcross hv hto hothers hlt htrigger (hstep hp hr ht hperiod)]
        rfl
      · rw [ctcPulse_crossing_of_lower hwired hcross hv hto hothers hlt
            (channelPulse_of_prescaling hp hr ht hperiod), cascadeDepth,
          trigger_of_runningTimer 3 j _ (by rw [Ctc.ch_setCh_self]; exact hr) (by rw [Ctc.ch_setCh_self]; exact ht)]
        rfl

end Sys2Proof.Machine

/-! PROOFS. The PIO (42_pio.md): its condition, its control bytes, and its data on the CPU's and the external side. -/

namespace Sys2Proof.Machine

/-! ## The condition of the lines (42_pio.md R186) -/

/-- A byte is not zero when one of its bits is set. -/
theorem byte_bne_zero_iff (x : Byte) : (x != 0) = true ↔ ∃ k, k < 8 ∧ x.getLsbD k = true := by
  constructor
  · intro h
    by_contra hnone
    have hzero : x = 0#8 := BitVec.eq_of_getLsbD_eq fun k hk => by
      simpa using fun hbit => hnone ⟨k, hk, hbit⟩
    simp [hzero] at h
  · rintro ⟨k, -, hbit⟩
    rw [bne_iff_ne]
    rintro rfl
    simp at hbit

/-- A byte covers a mask when it is set wherever the mask is. -/
theorem byte_and_beq_mask_iff (x m : Byte) :
    (x &&& m == m) = true ↔ ∀ k, k < 8 → m.getLsbD k = true → x.getLsbD k = true := by
  rw [beq_iff_eq]
  constructor
  · intro h k _ hm
    rw [← h, BitVec.getLsbD_and, Bool.and_eq_true] at hm
    exact hm.1
  · intro h
    refine BitVec.eq_of_getLsbD_eq fun k hk => ?_
    rw [BitVec.getLsbD_and]
    cases hm : m.getLsbD k with
    | false => simp
    | true => simp [h k hk hm]

theorem PioPort.getLsbD_lines (p : PioPort) (k : Nat) (hk : k < 8) : p.lines.getLsbD k = p.line k := by
  simp only [PioPort.lines, PioPort.line, BitVec.getLsbD_or, BitVec.getLsbD_and, BitVec.getLsbD_not, hk, decide_true,
    Bool.true_and]
  cases p.inputDirectionMask.getLsbD k <;> simp

/-- The lines, with a 1 for each that has the level that counts. -/
def PioPort.levels (p : PioPort) : Byte := if p.fireOnHigh then p.lines else ~~~p.lines

theorem PioPort.getLsbD_levels (p : PioPort) (k : Nat) (hk : k < 8) :
    p.levels.getLsbD k = true ↔ p.line k = p.fireOnHigh := by
  rw [← p.getLsbD_lines k hk, PioPort.levels]
  cases p.fireOnHigh <;> simp [hk]

theorem PioPort.monitored_iff (p : PioPort) (k : Nat) : p.Monitored k ↔ k < 8 ∧ (~~~p.bitMask).getLsbD k = true := by
  simp [PioPort.Monitored]

theorem PioPort.conditionOf_eq (p : PioPort) :
    p.conditionOf =
      if p.bitsAndCombined then ~~~p.bitMask != 0 && (p.levels &&& ~~~p.bitMask == ~~~p.bitMask)
      else p.levels &&& ~~~p.bitMask != 0 := rfl

/-- The model's condition, a test of bytes, is the condition line by line. -/
theorem PioPort.conditionOf_iff (p : PioPort) : p.conditionOf = true ↔ p.Fulfilled := by
  rw [PioPort.conditionOf_eq, PioPort.Fulfilled]
  split
  · rw [Bool.and_eq_true, byte_bne_zero_iff, byte_and_beq_mask_iff]
    refine and_congr (exists_congr fun k => (p.monitored_iff k).symm) (forall_congr' fun k => ?_)
    rw [p.monitored_iff, and_imp]
    exact forall_congr' fun hk => imp_congr_right fun _ => p.getLsbD_levels k hk
  · rw [byte_bne_zero_iff]
    refine exists_congr fun k => ?_
    rw [p.monitored_iff, BitVec.getLsbD_and, Bool.and_eq_true, and_assoc]
    refine and_congr_right fun hk => ?_
    rw [p.getLsbD_levels k hk, and_comm]

/-- The stored condition after a control write is that of the lines in bit mode, and false outside it. -/
theorem PioPort.recomputeCondition_iff (p : PioPort) :
    p.recomputeCondition.conditionCurrentlyFulfilled = true ↔ p.mode = .bitInOut ∧ p.Fulfilled := by
  rw [PioPort.recomputeCondition, ← p.conditionOf_iff, Bool.and_eq_true, beq_iff_eq]

/-! ## Control bytes (42_pio.md R171 to R177) -/

/-- Settles O26: where a mask is expected every byte is decoded as that mask. -/
theorem pioMaskBytesAreStored : Obligations.PioMaskBytesAreStored := by
  unfold Obligations.PioMaskBytesAreStored
  intro s p b
  constructor
  · intro hnext
    refine ⟨_,
      PioPort.recomputeCondition_iff { s.pio.port p with inputDirectionMask := b, nextControl := .command }, ?_⟩
    refine s.pioWriteByte_of_silent p b _ ?_
    rw [pioWrite_eq, hnext]
    simp only [decodePio, Pio.modPort, Pio.port_withResetState, PioPort.recomputeCondition]
  · intro hnext
    refine ⟨_, PioPort.recomputeCondition_iff { s.pio.port p with bitMask := b, nextControl := .command }, ?_⟩
    refine s.pioWriteByte_of_silent p b _ ?_
    rw [pioWrite_eq, hnext]
    simp only [decodePio, Pio.modPort, Pio.port_withResetState, PioPort.recomputeCondition]

theorem ModeCode.eq_decode {b : Byte} {m : PioMode} (h : ModeCode b m) : m = decodePioMode (b.extractLsb' 6 2) := by
  simp only [ModeCode, List.mem_cons, Prod.mk.injEq, List.not_mem_nil, or_false] at h
  rcases h with ⟨hc, rfl⟩ | ⟨hc, rfl⟩ | ⟨hc, rfl⟩ | ⟨hc, rfl⟩ <;> rw [hc] <;> rfl

/-- A mode word is the change of mode it names. -/
theorem pioWrite_of_modeWord {p : Side} {b : Byte} {d : Pio} {m : PioMode} (hn : b.extractLsb' 0 4 = 0xF)
    (hm : ModeCode b m) (hnext : (d.port p).nextControl = .command) :
    pioWrite p b d = (({ d with resetState := false } : Pio).writeMode p m).map fun d' => (d', []) := by
  rw [pioWrite_eq, hnext, decodePio_of_modeNibble b hn, ← hm.eq_decode]

/-- Settles O27: the three cases are those of `Pio.writeMode_spec`. -/
theorem pioModeWordSetsMode : Obligations.PioModeWordSetsMode := by
  unfold Obligations.PioModeWordSetsMode
  intro s b m hn hm
  refine ⟨fun hnext => ?_, fun hnext hne => ?_, fun hnext hbi => ?_⟩
  · refine ⟨_, PioPort.recomputeCondition_iff { s.pio.portA with mode := m, ready := false }, ?_⟩
    refine s.pioWriteByte_of_silent .a b _ ?_
    rw [pioWrite_of_modeWord (p := .a) hn hm hnext]
    rcases Pio.writeMode_spec { s.pio with resetState := false } .a m with ⟨hab, -⟩ | ⟨hab, -⟩ | ⟨-, hs⟩
    · cases hab
    · cases hab
    · rw [hs]
      rfl
  · have hready : (s.pio.portB.ready && (s.pio.portA.mode == .byteInOut)) =
        if s.pio.portA.mode = .byteInOut then s.pio.portB.ready else false := by
      cases s.pio.portA.mode <;> simp
    refine ⟨_, PioPort.recomputeCondition_iff { s.pio.portB with mode := m, ready := false }, ?_⟩
    refine s.pioWriteByte_of_silent .b b _ ?_
    rw [pioWrite_of_modeWord (p := .b) hn hm hnext, ← hready]
    rcases Pio.writeMode_spec { s.pio with resetState := false } .b m with ⟨-, hbi, -⟩ | ⟨-, -, hs⟩ | ⟨hba, -⟩
    · exact absurd hbi hne
    · rw [hs]
      rfl
    · cases hba
  · rw [exec_pioWriteControl, State.pioWriteByte, pioWrite_of_modeWord (p := .b) hn hm hnext, hbi]
    rfl

/-- An event is emitted exactly when the enable changes. -/
theorem enableEvents_eq (p : Side) (was now : Bool) :
    enableEvents p was now =
      if now = true ∧ was = false then [.interruptEnabled p]
      else if now = false ∧ was = true then [.interruptDisabled p] else [] := by
  cases was <;> cases now <;> rfl

/-- What a control write that the PIO accepts leaves. -/
theorem State.pioWriteByte_of_some (s : State) (p : Side) (b : Byte) (d : Pio) (es : List Event)
    (h : pioWrite p b s.pio = some (d, es)) :
    s.pioWriteByte p b = .next { s with pio := d, trace := s.trace ++ es, reply := .unit } := by
  rw [State.pioWriteByte, h]
  rfl

/-- The reserved low nibbles (30_encoding.md R92). -/
theorem pioWrite_of_reservedNibble {p : Side} {b : Byte} {d : Pio}
    (hn : b.extractLsb' 0 4 ∈ [(0x1 : BitVec 4), 0x5, 0x9, 0xB, 0xD]) (hnext : (d.port p).nextControl = .command) :
    pioWrite p b d = some ({ d with resetState := false }, []) := by
  rw [pioWrite_eq, hnext]
  by_cases hB : b.extractLsb' 0 4 = 0xB
  · rw [decodePio_of_nibbleB b hB]
  · have hlow : b.extractLsb' 0 2 = 1 := by
      clear hnext d
      revert b
      decide
    rw [decodePio_of_lowBits01 b hlow]

/-- Settles O28: the low nibble tells the three kinds of word apart. -/
theorem pioInterruptWordsSetEnable : Obligations.PioInterruptWordsSetEnable := by
  unfold Obligations.PioInterruptWordsSetEnable
  intro s p b hnext
  refine ⟨fun hn => ?_, fun hn => ?_, fun hn => ?_⟩
  · refine ⟨_, PioPort.recomputeCondition_iff
      { s.pio.port p with bitsAndCombined := b.getLsbD 6, fireOnHigh := b.getLsbD 5 }, ?_⟩
    refine s.pioWriteByte_of_some p b _ _ ?_
    rw [pioWrite_eq, hnext, decodePio_of_conditionNibble b hn, ← enableEvents_eq, ← hnext]
    simp only [Pio.modPort, Pio.port_withResetState]
    rfl
  · refine s.pioWriteByte_of_some p b _ _ ?_
    rw [pioWrite_eq, hnext, decodePio_of_enableNibble b hn, ← enableEvents_eq]
    simp only [Pio.modPort, Pio.port_withResetState]
  · exact s.pioWriteByte_of_silent p b _ (pioWrite_of_reservedNibble hn hnext)

/-! ## Data from the CPU (42_pio.md R179, R180) -/

theorem exec_pioWriteData (p : Side) (v : Byte) (s : State) :
    exec (.pioWriteData p v) s = .next (s.pioRun (pioWriteData p v s.pio) .unit) := rfl

theorem exec_pioReadData (p : Side) (s : State) :
    exec (.pioReadData p) s = .next (s.pioRun (pioReadData p s.pio) (.byte (pioReadValue p s.pio))) := rfl

theorem State.pioRun_silent (s : State) (d : Pio) (r : Reply) :
    s.pioRun (d, []) r = { s with pio := d, reply := r } := by
  rw [State.pioRun, State.emit_nil]
  rfl

theorem Pio.aBidir_iff (d : Pio) : d.aBidir = true ↔ d.portA.mode = .byteInOut := beq_iff_eq

/-- Settles O29: the latch and then the mode decide. -/
theorem pioDataWriteStoresAndOffers : Obligations.PioDataWriteStoresAndOffers := by
  unfold Obligations.PioDataWriteStoresAndOffers
  intro s p v
  simp only [exec_pioWriteData]
  refine ⟨fun h => ?_, fun hr hm => ?_, fun hr hm => ?_⟩
  · have hwrite : pioWriteData p v s.pio = (s.pio.setPort p { s.pio.port p with outputRegister := v }, []) := by
      rcases h with hr | hm
      · simp only [pioWriteData, hr, if_true, Pio.modPort]
      · simp only [pioWriteData, hm, ite_self, Pio.modPort]
    rw [hwrite, State.pioRun_silent]
  · have hwrite : pioWriteData p v s.pio =
        (s.pio.setPort p { s.pio.port p with outputRegister := v, ready := true }, [.outputAvailable p v]) := by
      rcases hm with hm | hm <;> simp [pioWriteData, hr, hm, Pio.modPort]
    rw [hwrite]
    rfl
  · refine ⟨_, PioPort.conditionOf_iff { s.pio.port p with outputRegister := v }, ?_⟩
    have hwrite : pioWriteData p v s.pio =
        (s.pio.modPort p fun q => PioPort.checkBitIO { q with outputRegister := v }, [.outputChanged p v]) := by
      simp only [pioWriteData, hr, hm, Bool.false_eq_true, if_false, Pio.modPort_modPort]
    rw [hwrite]
    rfl

/-- Settles O30: the mode decides what is read, the latch and port A's mode whether the handshake is completed. -/
theorem pioDataReadReturnsAndAcknowledges : Obligations.PioDataReadReturnsAndAcknowledges := by
  unfold Obligations.PioDataReadReturnsAndAcknowledges
  intro s p
  simp only [exec_pioReadData]
  refine ⟨fun hm => ?_, fun hm hdead => ?_, fun hm hr hlive => ?_, ?_, ?_, fun hm => ?_⟩
  · simp only [pioReadData, pioReadValue, hm, State.pioRun_silent]
  · have hcond : (s.pio.resetState || (decide (p = .b) && s.pio.aBidir)) = true := by
      simpa [Pio.aBidir_iff] using hdead
    simp only [pioReadData, pioReadValue, hm, hcond, if_true, State.pioRun_silent, Pio.modPort]
  · have hcond : (s.pio.resetState || (decide (p = .b) && s.pio.aBidir)) = false := by
      rw [Bool.eq_false_iff]
      simpa [hr, Pio.aBidir_iff] using hlive
    have hread : pioReadData p s.pio =
        (s.pio.modPort p fun q => { q with valueMask := 0x00, ready := false }, [.readyForInput p]) := by
      simp only [pioReadData, hm, hcond, Bool.false_eq_true, if_false, Pio.modPort_modPort]
    have hvalue : pioReadValue p s.pio = (s.pio.port p).inputRegister := by simp only [pioReadValue, hm]
    rw [hread, hvalue]
    rfl
  · rintro rfl hm hr
    have hread : pioReadData .a s.pio = (s.pio.modPort .a fun q => { q with valueMask := 0x00 }, []) := by
      simp only [pioReadData, hm, hr, if_true]
    have hvalue : pioReadValue .a s.pio = s.pio.portA.inputRegister := by simp only [pioReadValue, hm]
    rw [hread, hvalue, State.pioRun_silent]
    rfl
  · rintro rfl hm hr
    have hread : pioReadData .a s.pio =
        ((s.pio.modPort .a fun q => { q with valueMask := 0x00 }).modPort .b fun q => { q with ready := false },
          [.readyForInput .a]) := by
      simp only [pioReadData, hm, hr, Bool.false_eq_true, if_false]
    have hvalue : pioReadValue .a s.pio = s.pio.portA.inputRegister := by simp only [pioReadValue, hm]
    rw [hread, hvalue]
    rfl
  · refine ⟨(s.pio.port p).lines, (s.pio.port p).getLsbD_lines, ?_⟩
    simp only [pioReadData, pioReadValue, hm, State.pioRun_silent, Pio.modPort]

/-! ## The external side (42_pio.md R182, R183) -/

theorem exec_pioPutInValue (p : Side) (v m : Byte) (strobe : Bool) (s : State) :
    exec (.pioPutInValue p v m strobe) s = .next (s.pioRun (pioPut p v m strobe s.pio, []) .unit) := rfl

theorem exec_pioFetchOutValue (p : Side) (strobe : Bool) (s : State) :
    exec (.pioFetchOutValue p strobe) s =
      .next (s.pioRun (pioFetch p strobe s.pio, []) (.byte (pioFetchValue p s.pio))) := rfl

/-- The bits put: where `m` is 1 the register takes `v`, and the bits are marked fresh (42_pio.md R182). -/
def PioPort.putBits (q : PioPort) (v m : Byte) : PioPort :=
  { q with inputRegister := (q.inputRegister &&& ~~~m) ||| (v &&& m), valueMask := q.valueMask ||| m }

theorem PioPort.putBits_eq (q : PioPort) {v m stored : Byte}
    (h : ∀ k, stored.getLsbD k = if m.getLsbD k then v.getLsbD k else q.inputRegister.getLsbD k) :
    q.putBits v m = { q with inputRegister := stored, valueMask := q.valueMask ||| m } := by
  have hmerge : (q.inputRegister &&& ~~~m) ||| (v &&& m) = stored := by
    refine BitVec.eq_of_getLsbD_eq fun k hk => ?_
    rw [h k, BitVec.getLsbD_or, BitVec.getLsbD_and, BitVec.getLsbD_and, BitVec.getLsbD_not]
    cases m.getLsbD k <;> simp [hk]
  rw [PioPort.putBits, hmerge]

theorem PioPort.strobed_eq (q : PioPort) (strobe : Bool) :
    (if strobe then q.requestInterrupt else q) =
      { q with intRequested := q.intRequested || (strobe && q.intEnabled) } := by
  cases strobe with
  | true => rfl
  | false => simp

/-- A put that only stores: with the latch set, at an output, and at port B beside a bidirectional port A. -/
theorem pioPut_of_idle {p : Side} {d : Pio} (v m : Byte) (strobe : Bool)
    (h : d.resetState = true ∨ (d.port p).mode = .byteOut ∨
      ((d.port p).mode = .byteIn ∧ p = .b ∧ d.portA.mode = .byteInOut)) :
    pioPut p v m strobe d = d.modPort p fun q => q.putBits v m := by
  rcases h with hr | hm | ⟨hm, hdead⟩
  · simp only [pioPut, hr, if_true, PioPort.putBits]
  · simp only [pioPut, hm, ite_self, PioPort.putBits]
  · simp only [pioPut, hm, if_pos (And.imp_right d.aBidir_iff.mpr hdead), ite_self, PioPort.putBits]

theorem pioPut_of_byteIn {p : Side} {d : Pio} (v m : Byte) (strobe : Bool) (hr : d.resetState = false)
    (hm : (d.port p).mode = .byteIn) (hlive : ¬ (p = .b ∧ d.portA.mode = .byteInOut)) :
    pioPut p v m strobe d = d.modPort p fun q =>
      { q.putBits v m with ready := true, intRequested := q.intRequested || (strobe && q.intEnabled) } := by
  simp only [pioPut, hr, hm, if_neg (mt (And.imp_right d.aBidir_iff.mp) hlive), Bool.false_eq_true, if_false,
    Pio.modPort_modPort, PioPort.strobed_eq, PioPort.putBits]

theorem pioPut_of_byteInOut {d : Pio} (v m : Byte) (strobe : Bool) (hr : d.resetState = false)
    (hm : (d.port .a).mode = .byteInOut) :
    pioPut .a v m strobe d =
      { d with
        portA := { d.portA.putBits v m with intRequested := d.portA.intRequested || (strobe && d.portA.intEnabled) }
        portB := { d.portB with ready := true } } := by
  have hput : pioPut .a v m strobe d = ((d.modPort .a fun q => q.putBits v m).modPort .b fun q => { q with ready := true
      }).modPort .a fun q => { q with intRequested := q.intRequested || (strobe && q.intEnabled) } := by
    simp only [pioPut, hr, hm, Bool.false_eq_true, if_false, PioPort.strobed_eq, PioPort.putBits]
  rw [hput]
  rfl

theorem pioPut_of_bitInOut {p : Side} {d : Pio} (v m : Byte) (strobe : Bool) (hr : d.resetState = false)
    (hm : (d.port p).mode = .bitInOut) :
    pioPut p v m strobe d = d.modPort p fun q => (q.putBits v m).checkBitIO := by
  simp only [pioPut, hr, hm, Bool.false_eq_true, if_false, Pio.modPort_modPort, PioPort.putBits]

/-- Settles O31: the bits put are stored first; the latch and then the mode decide what follows. -/
theorem pioPutStoresAndSignals : Obligations.PioPutStoresAndSignals := by
  unfold Obligations.PioPutStoresAndSignals
  intro s p v m stored strobe hstored
  have hbits := (s.pio.port p).putBits_eq hstored
  rw [exec_pioPutInValue, State.pioRun_silent]
  refine ⟨fun h => ?_, fun hr hm hlive => ?_, ?_, fun hr hm => ?_⟩
  · rw [pioPut_of_idle v m strobe h, Pio.modPort, hbits]
  · rw [pioPut_of_byteIn v m strobe hr hm hlive, Pio.modPort, hbits]
  · rintro rfl hr hm
    rw [pioPut_of_byteInOut v m strobe hr hm, s.pio.portA.putBits_eq hstored]
  · refine ⟨_, PioPort.conditionOf_iff { s.pio.port p with inputRegister := stored }, ?_⟩
    rw [pioPut_of_bitInOut v m strobe hr hm, Pio.modPort, hbits]
    rfl

/-- A fetch that changes nothing. -/
theorem pioFetch_of_idle {p : Side} {strobe : Bool} {d : Pio}
    (h : d.resetState = true ∨ strobe = false ∨ (d.port p).mode = .byteIn ∨ (d.port p).mode = .bitInOut ∨
      ((d.port p).mode = .byteOut ∧ p = .b ∧ d.portA.mode = .byteInOut)) :
    pioFetch p strobe d = d := by
  rcases h with hr | hs | hm | hm | ⟨hm, hdead⟩
  · simp only [pioFetch, hr, Bool.true_or, if_true]
  · simp only [pioFetch, hs, Bool.not_false, Bool.or_true, if_true]
  · simp only [pioFetch, hm, ite_self]
  · simp only [pioFetch, hm, ite_self]
  · simp only [pioFetch, hm, if_pos (And.imp_right d.aBidir_iff.mpr hdead), ite_self]

/-- A strobe that completes the output handshake. -/
theorem pioFetch_of_live {p : Side} {d : Pio} (hr : d.resetState = false)
    (h : ((d.port p).mode = .byteOut ∧ ¬ (p = .b ∧ d.portA.mode = .byteInOut)) ∨
      ((d.port p).mode = .byteInOut ∧ p = .a)) :
    pioFetch p true d = d.modPort p fun q => { q with ready := false }.requestInterrupt := by
  rcases h with ⟨hm, hlive⟩ | ⟨hm, rfl⟩
  · simp only [pioFetch, hr, hm, if_neg (mt (And.imp_right d.aBidir_iff.mp) hlive), Bool.not_true, Bool.or_self,
      Bool.false_eq_true, if_false]
  · simp only [pioFetch, hr, hm, Bool.not_true, Bool.or_self, Bool.false_eq_true, if_false]

/-- An output port gives its output register. -/
theorem pioFetchValue_of_output {p : Side} {d : Pio} (hr : d.resetState = false)
    (h : (d.port p).mode = .byteOut ∨ (d.port p).mode = .bitInOut ∨ ((d.port p).mode = .byteInOut ∧ p = .a)) :
    pioFetchValue p d = (d.port p).outputRegister := by
  rcases h with hm | hm | ⟨hm, rfl⟩
  · simp only [pioFetchValue, hr, hm, Bool.false_eq_true, if_false]
  · simp only [pioFetchValue, hr, hm, Bool.false_eq_true, if_false]
  · simp only [pioFetchValue, hr, hm, Bool.false_eq_true, if_false]
    rfl

/-- Settles O32: the latch and the mode decide the byte; a strobe in an output mode completes the output handshake. -/
theorem pioFetchReturnsAndAcknowledges : Obligations.PioFetchReturnsAndAcknowledges := by
  unfold Obligations.PioFetchReturnsAndAcknowledges
  intro s p strobe
  rw [exec_pioFetchOutValue, State.pioRun_silent]
  refine ⟨fun h => ?_, fun hr h => ?_, fun hr hstrobe h => ?_⟩
  · have hvalue : pioFetchValue p s.pio = 0xFF := by
      rcases h with hr | hm
      · simp only [pioFetchValue, hr, if_true]
      · simp only [pioFetchValue, hm, ite_self]
    rw [hvalue, pioFetch_of_idle (h.imp_right fun hm => .inr (.inl hm))]
  · rcases h with hm | ⟨hm, hidle⟩ | ⟨hm, ha, hs⟩
    · rw [pioFetchValue_of_output hr (.inr (.inl hm)), pioFetch_of_idle (.inr (.inr (.inr (.inl hm))))]
    · rw [pioFetchValue_of_output hr (.inl hm),
        pioFetch_of_idle (.inr (hidle.imp_right fun hdead => .inr (.inr ⟨hm, hdead⟩)))]
    · rw [pioFetchValue_of_output hr (.inr (.inr ⟨hm, ha⟩)), pioFetch_of_idle (.inr (.inl hs))]
  · rw [pioFetchValue_of_output hr (h.imp And.left .inr), hstrobe, pioFetch_of_live hr h]
    rfl

end Sys2Proof.Machine

/-! PROOFS. The SIO as the CPU sees it (43_sio.md R210 to R224), and its modem lines (R234, R235). -/

namespace Sys2Proof.Machine

/-! ## Control bytes (43_sio.md R210 to R219) -/

theorem exec_sioWriteControl (c : Side) (b : Byte) (s : State) :
    exec (.sioWriteControl c b) s = .next ((s.sioWriteByte c b).returning .unit) := rfl

/-- Clearing the pointer is seen in register 0 only. -/
theorem WriteRegs.get_clearPointer (w : WriteRegs) (n : BitVec 3) :
    w.clearPointer.get n = if n = 0 then w.wr0 &&& 0xF8 else w.get n :=
  eight_registers (P := fun n => w.clearPointer.get n = if n = 0 then w.wr0 &&& 0xF8 else w.get n)
    rfl rfl rfl rfl rfl rfl rfl rfl n

/-- The registers after a byte is stored in one other than 0. -/
theorem WriteRegs.get_set_clearPointer (w : WriteRegs) {ptr : BitVec 3} (hptr : ptr ≠ 0) (b : Byte) (n : BitVec 3) :
    (w.set ptr b).clearPointer.get n = if n = ptr then b else if n = 0 then w.wr0 &&& 0xF8 else w.get n := by
  have hzero : (w.set ptr b).wr0 = w.wr0 := (w.get_set ptr 0 b).trans (if_neg hptr.symm)
  rw [WriteRegs.get_clearPointer, WriteRegs.get_set, hzero]
  by_cases hn : n = ptr
  · simp only [hn, hptr, if_true, if_false]
  · simp only [hn, if_false]

/-- With the pointer not at 0 a control byte is stored in the register it addresses. -/
theorem exec_sioWriteControl_of_register (s : State) (c : Side) (b : Byte) (h : (s.sio.ch c).wr.pointer ≠ 0) :
    exec (.sioWriteControl c b) s = .next { s with
      sio := s.sio.setCh c ((s.sio.ch c).storeRegister (s.sio.ch c).wr.pointer b), reply := .unit } := by
  rcases s.sioWriteByte_spec c b with ⟨h0, -⟩ | ⟨-, he⟩
  · exact absurd h0 h
  · rw [exec_sioWriteControl, he]
    rfl

/-- Settles O33: the registers after the write are those of `WriteRegs.get_set_clearPointer`. -/
theorem sioRegisterByteIsStored : Obligations.SioRegisterByteIsStored := by
  unfold Obligations.SioRegisterByteIsStored
  intro s c b hptr
  exact ⟨((s.sio.ch c).wr.set (s.sio.ch c).wr.pointer b).clearPointer, (s.sio.ch c).wr.get_set_clearPointer hptr b,
    exec_sioWriteControl_of_register s c b hptr⟩

/-- A command's effect on its channel; `reti` is the device's, and has none (43_sio.md R211 to R218). -/
def SioChannel.command (q : SioChannel) : SioCommand → SioChannel
  | .null | .cmd1None | .reti => q
  | .resetExtStatus => { q with extRequested := false }
  | .channelReset => q.resetChannel false
  | .enableFirstChar => { q with rxFirstCharArmed := true }
  | .resetTxInt => { q with txRequested := false }
  | .errorReset => { q with rxOverrunLatch := false }

/-- `wr[0] <- b`. -/
def SioChannel.withWr0 (q : SioChannel) (b : Byte) : SioChannel := { q with wr := { q.wr with wr0 := b } }

/-- With the pointer at 0 a control byte is stored in `wr[0]` and its command runs. -/
theorem State.sioWriteByte_of_command (s : State) (c : Side) (b : Byte) (h : (s.sio.ch c).wr.pointer = 0) :
    s.sioWriteByte c b = sioCommand c (decodeSioCommand (b.extractLsb' 3 3)) (s.modSio c fun q => q.withWr0 b) := by
  rcases s.sioWriteByte_spec c b with ⟨-, he⟩ | ⟨hne, -⟩
  · exact he
  · exact absurd h hne

theorem State.modSio_id (s : State) (c : Side) : (s.modSio c fun q => q) = s := by
  rw [State.modSio, Sio.setCh_ch]
  rfl

theorem sioCommand_eq_modSio (c : Side) (cmd : SioCommand) (h : cmd ≠ .reti) (s : State) :
    sioCommand c cmd s = s.modSio c fun q => q.command cmd := by
  cases cmd with
  | reti => exact absurd rfl h
  | null | cmd1None => exact (s.modSio_id c).symm
  | resetExtStatus | channelReset | enableFirstChar | resetTxInt | errorReset => rfl

/-- A command other than `reti` changes its own channel only. -/
theorem exec_sioWriteControl_of_command (s : State) (c : Side) (b : Byte) (cmd : SioCommand)
    (hptr : (s.sio.ch c).wr.pointer = 0) (hcmd : decodeSioCommand (b.extractLsb' 3 3) = cmd) (hne : cmd ≠ .reti) :
    exec (.sioWriteControl c b) s = .next { s with
      sio := s.sio.setCh c (((s.sio.ch c).withWr0 b).command cmd), reply := .unit } := by
  rw [exec_sioWriteControl, s.sioWriteByte_of_command c b hptr, hcmd, sioCommand_eq_modSio c cmd hne,
    State.modSio_modSio]
  rfl

/-- Settles O34: each of the six codes is decoded as its command. -/
theorem sioCommandsActOnChannel : Obligations.SioCommandsActOnChannel := by
  unfold Obligations.SioCommandsActOnChannel
  intro s c b hptr hcode
  have hexec (cmd : SioCommand) (hne : cmd ≠ .reti) {code : BitVec 3} (h : b.extractLsb' 3 3 = code)
      (hd : decodeSioCommand code = cmd) := exec_sioWriteControl_of_command s c b cmd hptr (h ▸ hd) hne
  simp only [List.mem_cons, List.not_mem_nil, or_false] at hcode
  rcases hcode with h | h | h | h | h | h
  · rw [hexec .null (by decide) h rfl, h]
    rfl
  · rw [hexec .cmd1None (by decide) h rfl, h]
    rfl
  · rw [hexec .resetExtStatus (by decide) h rfl, h]
    rfl
  · rw [hexec .enableFirstChar (by decide) h rfl, h]
    rfl
  · rw [hexec .resetTxInt (by decide) h rfl, h]
    rfl
  · rw [hexec .errorReset (by decide) h rfl, h]
    rfl

/-- Settles O35: command 3 is the channel's warm reset, command 7 on channel A is the device's `finish`. -/
theorem sioChannelResetAndSoftwareReti : Obligations.SioChannelResetAndSoftwareReti := by
  unfold Obligations.SioChannelResetAndSoftwareReti
  intro s c b hptr
  refine ⟨fun h => ?_, ?_, ?_⟩
  · rw [exec_sioWriteControl_of_command s c b .channelReset hptr (by rw [h]; rfl) (by decide)]
    rfl
  · rintro h rfl
    refine ⟨_, rfl, ?_⟩
    rw [exec_sioWriteControl, s.sioWriteByte_of_command .a b hptr, h]
    rfl
  · rintro h rfl
    rw [exec_sioWriteControl, s.sioWriteByte_of_command .b b hptr, h]
    rfl

/-! ## A register set in one step (30_encoding.md R108) -/

theorem finishDevice_returning (d : Device) (s : State) (r : Reply) :
    finishDevice d (s.returning r) = (finishDevice d s).returning r := by
  have hflags : (s.returning r).accepted = s.accepted := funext (s.accepted_returning r)
  unfold finishDevice
  rw [hflags]
  cases (sources d).find? s.accepted with
  | none => rfl
  | some x => cases x <;> rfl

theorem sioCommand_returning (c : Side) (cmd : SioCommand) (s : State) (r : Reply) :
    sioCommand c cmd (s.returning r) = (sioCommand c cmd s).returning r := by
  cases cmd with
  | reti =>
    cases c with
    | a => exact finishDevice_returning .sio s r
    | b => rfl
  | null | cmd1None | resetExtStatus | channelReset | enableFirstChar | resetTxInt | errorReset => rfl

/-- A control write does not see the last reply. -/
theorem State.sioWriteByte_returning (s : State) (c : Side) (b : Byte) (r : Reply) :
    (s.returning r).sioWriteByte c b = (s.sioWriteByte c b).returning r := by
  rcases s.sioWriteByte_spec c b with ⟨h0, he⟩ | ⟨hne, he⟩ <;>
    rcases (s.returning r).sioWriteByte_spec c b with ⟨h0', he'⟩ | ⟨hne', he'⟩
  · rw [he, he', ← sioCommand_returning]
    rfl
  · exact absurd h0 hne'
  · exact absurd h0' hne
  · rw [he, he']
    rfl

theorem exec_sioSetReg (c : Side) (n : BitVec 3) (b : Byte) (s : State) :
    exec (.sioSetReg c n b) s =
      if setRegNumberOk n then .next (((s.sioWriteByte c (n.setWidth 8)).sioWriteByte c b).returning .unit)
      else .refused .indexOutOfRange := rfl

/-- The pointer byte holds no command, and its pointer is the register's number. -/
theorem pointerByte_fields (n : BitVec 3) :
    (n.setWidth 8).extractLsb' 3 3 = 0 ∧ (n.setWidth 8).extractLsb' 0 3 = n ∧
      n.setWidth 8 &&& 0xF8 = (0x00 : Byte) := by
  revert n
  decide

/-- With the pointer at 0 the pointer byte only moves the pointer. -/
theorem State.sioWriteByte_of_pointerByte (s : State) (c : Side) (n : BitVec 3) (h : (s.sio.ch c).wr.pointer = 0) :
    (s.sioWriteByte c (n.setWidth 8)).sio.ch c = (s.sio.ch c).withWr0 (n.setWidth 8) := by
  obtain ⟨hcode, -, -⟩ := pointerByte_fields n
  rw [s.sioWriteByte_of_command c _ h, hcode]
  exact s.sio.ch_setCh_self c _

theorem State.sioWriteByte_of_register (s : State) (c : Side) (b : Byte) (h : (s.sio.ch c).wr.pointer ≠ 0) :
    (s.sioWriteByte c b).sio.ch c = (s.sio.ch c).storeRegister (s.sio.ch c).wr.pointer b := by
  rcases s.sioWriteByte_spec c b with ⟨h0, -⟩ | ⟨-, he⟩
  · exact absurd h0 h
  · rw [he]
    exact s.sio.ch_setCh_self c _

/-- Settles O36: the first write only moves the pointer, so the second is stored in the register. -/
theorem setRegIsTwoControlWrites : Obligations.SetRegIsTwoControlWrites := by
  unfold Obligations.SetRegIsTwoControlWrites
  intro s c n b
  constructor
  · rintro rfl
    rfl
  · intro hn
    have hok : setRegNumberOk n = true := bne_iff_ne.mpr hn
    refine ⟨_, _, exec_sioWriteControl c _ s, exec_sioWriteControl c b _, ?_, fun hptr => ?_⟩
    · rw [exec_sioSetReg, if_pos hok, State.sioWriteByte_returning]
      rfl
    · obtain ⟨-, hpointer, hclear⟩ := pointerByte_fields n
      have hfirst := s.sioWriteByte_of_pointerByte c n hptr
      have hptr' : ((s.sioWriteByte c (n.setWidth 8)).sio.ch c).wr.pointer = n := by
        rw [hfirst]
        exact hpointer
      have hsecond := (s.sioWriteByte c (n.setWidth 8)).sioWriteByte_of_register c b (by rw [hptr']; exact hn)
      rw [hptr', hfirst] at hsecond
      rw [State.sioWriteByte_returning, State.returning_sio, State.returning_sio, hsecond]
      have hget := WriteRegs.get_set_clearPointer ((s.sio.ch c).withWr0 (n.setWidth 8)).wr hn b
      refine ⟨(hget n).trans (if_pos rfl), (hget 0).trans ?_, fun m hm hmn => (hget m).trans ?_⟩
      · rw [if_neg hn.symm, if_pos rfl]
        exact hclear
      · rw [if_neg hmn, if_neg hm]
        revert hm
        exact eight_registers (P := fun m => m ≠ 0 →
            ((s.sio.ch c).withWr0 (n.setWidth 8)).wr.get m = (s.sio.ch c).wr.get m)
          (fun h => absurd rfl h) (fun _ => rfl) (fun _ => rfl) (fun _ => rfl) (fun _ => rfl) (fun _ => rfl)
          (fun _ => rfl) (fun _ => rfl) m

/-! ## Reads and data (43_sio.md R220 to R224) -/

/-- The bits of a byte of the form of `rr[0]`. -/
theorem rr0_bits (b5 b3 b2 b1 b0 : Bool) (v : Byte)
    (hv : v = 0#2 ++ BitVec.ofBool b5 ++ 0#1 ++ BitVec.ofBool b3 ++ BitVec.ofBool b2 ++ BitVec.ofBool b1 ++
      BitVec.ofBool b0) :
    v.getLsbD 0 = b0 ∧ v.getLsbD 1 = b1 ∧ v.getLsbD 2 = b2 ∧ v.getLsbD 3 = b3 ∧ v.getLsbD 4 = false ∧
      v.getLsbD 5 = b5 ∧ v.getLsbD 6 = false ∧ v.getLsbD 7 = false := by
  subst hv
  revert b5 b3 b2 b1 b0
  decide

theorem rr1_bits (b5 b0 : Bool) (v : Byte) (hv : v = 0#2 ++ BitVec.ofBool b5 ++ 0#4 ++ BitVec.ofBool b0) :
    v.getLsbD 0 = b0 ∧ v.getLsbD 5 = b5 ∧ ∀ k ∈ [1, 2, 3, 4, 6, 7], v.getLsbD k = false := by
  subst hv
  revert b5 b0
  decide

/-- The SIO requests when a source of one of its channels is pending. -/
theorem State.sio_isRequested_iff (s : State) :
    s.isRequested .sio = true ↔ ∃ e k, s.requested (.sio e k) = true ∧ s.accepted (.sio e k) = false := by
  rw [s.isRequested_iff]
  constructor
  · rintro ⟨x, hx, hp⟩
    have hdevice := (mem_sources_iff x .sio).mp hx
    cases x with
    | ctc i => cases hdevice
    | pio p => cases hdevice
    | sio e k => exact ⟨e, k, (s.pending_iff _).mp hp⟩
  · rintro ⟨e, k, hp⟩
    exact ⟨.sio e k, mem_sources_sio e k, (s.pending_iff _).mpr hp⟩

/-- The byte the model assembles is `rr[0]`. -/
theorem State.isRr0_rr0 (s : State) (c : Side) : IsRr0 s c (s.rr0 c) := by
  obtain ⟨h0, h1, h2, h3, h4, h5, h6, h7⟩ := rr0_bits _ _ _ _ _ (s.rr0 c) rfl
  refine ⟨?_, ?_, h2, ?_, h4, ?_, h6, h7⟩
  · rw [h0, decide_eq_true_iff]
  · rw [h1, decide_eq_true_iff, s.sio_isRequested_iff]
  · rw [h3, decide_eq_true_iff]
  · rw [h5, decide_eq_true_iff]

/-- The byte the model assembles is `rr[1]`. -/
theorem State.isRr1_rr1 (s : State) (c : Side) : IsRr1 s c (s.sio.ch c).rr1 := rr1_bits _ _ _ rfl

/-- Settles O37: the pointer picks the reply; a free byte moves the count of draws. -/
theorem sioControlReadReturnsStatus : Obligations.SioControlReadReturnsStatus := by
  unfold Obligations.SioControlReadReturnsStatus
  intro s c op hop
  have hexec : exec op s = .next (s.sioReadControl c) := by
    rcases hop with rfl | rfl | rfl <;> rfl
  rw [hexec, State.sioReadControl]
  by_cases h0 : (s.sio.ch c).wr.pointer = 0
  · refine ⟨s.rr0 c, s.draws, ?_, fun _ => ⟨s.isRr0_rr0 c, rfl⟩, fun h1 => ?_, fun hne _ => absurd h0 hne⟩
    · rw [if_pos h0]
      rfl
    · exact absurd (h0.symm.trans h1) (by decide)
  · by_cases h1 : (s.sio.ch c).wr.pointer = 1
    · refine ⟨(s.sio.ch c).rr1, s.draws, ?_, fun h => absurd h h0, fun _ => ⟨s.isRr1_rr1 c, rfl⟩,
        fun _ hne => absurd h1 hne⟩
      rw [if_neg h0, if_pos h1]
      rfl
    · refine ⟨Config.freeByte s.draws, s.draws + 1, ?_, fun h => absurd h h0, fun h => absurd h h1,
        fun _ _ => ⟨rfl, rfl⟩⟩
      rw [if_neg h0, if_neg h1]
      rfl

theorem exec_sioReadData (c : Side) (s : State) : exec (.sioReadData c) s = .next (s.sioReadData c) := rfl

/-- Settles O38: both reads draw a byte. -/
theorem unspecifiedReadsReturnAFreeByte : Obligations.UnspecifiedReadsReturnAFreeByte := by
  unfold Obligations.UnspecifiedReadsReturnAFreeByte
  refine ⟨fun s p => rfl, fun s c h => ?_⟩
  rcases s.sioReadData_spec c with ⟨-, he⟩ | ⟨hne, -⟩
  · rw [exec_sioReadData, he]
    rfl
  · exact absurd h hne

/-- Settles O39: a read of a FIFO that holds something shifts it. -/
theorem sioDataMovesThroughBuffers : Obligations.SioDataMovesThroughBuffers := by
  unfold Obligations.SioDataMovesThroughBuffers
  refine ⟨fun s c v => rfl, fun s c h => ?_⟩
  rcases s.sioReadData_spec c with ⟨h0, -⟩ | ⟨-, he⟩
  · exact absurd h0 (Nat.ne_of_gt h)
  · rw [exec_sioReadData, he]
    rfl

/-! ## Modem lines (43_sio.md R234, R235) -/

/-- A known level other than the one reported is its opposite. -/
theorem known_change_iff (old : Option Bool) (level : Bool) :
    (old != none && old != some level) = decide (old = some (!level)) := by
  cases old with
  | none => rfl
  | some was => cases was <;> cases level <;> rfl

theorem SioChannel.modemChange_eq (q : SioChannel) (old : Option Bool) (level : Bool) :
    q.modemChange old level =
      { q with extRequested := q.extRequested || (decide (old = some (!level)) && q.wr.wr1.getLsbD 0) } := by
  rw [SioChannel.modemChange, known_change_iff]
  rfl

theorem exec_sioSetClearToSend (c : Side) (level : Bool) (s : State) :
    exec (.sioSetClearToSend c level) s =
      .next ((s.modSio c fun q => { q.modemChange q.cts level with cts := some level }).returning .unit) := rfl

theorem exec_sioSetDataCarrierDetect (c : Side) (level : Bool) (s : State) :
    exec (.sioSetDataCarrierDetect c level) s =
      .next ((s.modSio c fun q => { q.modemChange q.dcd level with dcd := some level }).returning .unit) := rfl

/-- Settles O47: for both lines the change is `SioChannel.modemChange_eq`. -/
theorem modemLineChangeRequests : Obligations.ModemLineChangeRequests := by
  unfold Obligations.ModemLineChangeRequests
  intro s c level
  rw [exec_sioSetClearToSend, exec_sioSetDataCarrierDetect]
  simp only [SioChannel.modemChange_eq]
  exact ⟨rfl, rfl⟩

end Sys2Proof.Machine

/-! PROOFS. The shifters of the SIO: their timing, their single pulses, and whole frames (43_sio.md R226 to R236). -/

namespace Sys2Proof.Machine

/-! ## The timing of a channel, by the bits of its registers (43_sio.md R226, R227) -/

theorem SioChannel.clockDiv_of_divisor {q : SioChannel} {n : Nat} (h : ClockDivisor q n) : q.clockDiv = n := by
  have hcode : q.clockDiv = if q.wr.wr4.extractLsb' 6 2 = 0 then 1 else if q.wr.wr4.extractLsb' 6 2 = 1 then 16
      else if q.wr.wr4.extractLsb' 6 2 = 2 then 32 else 64 := rfl
  simp only [ClockDivisor, List.mem_cons, Prod.mk.injEq, List.not_mem_nil, or_false] at h
  rw [hcode]
  rcases h with ⟨h, rfl⟩ | ⟨h, rfl⟩ | ⟨h, rfl⟩ | ⟨h, rfl⟩ <;> rw [h] <;> rfl

theorem characterBits_of_width {code : BitVec 2} {n : Nat} (h : CharacterWidth code n) : characterBits code = n := by
  simp only [CharacterWidth, List.mem_cons, Prod.mk.injEq, List.not_mem_nil, or_false] at h
  rcases h with ⟨rfl, rfl⟩ | ⟨rfl, rfl⟩ | ⟨rfl, rfl⟩ | ⟨rfl, rfl⟩ <;> rfl

theorem characterWidth_characterBits (code : BitVec 2) : CharacterWidth code (characterBits code) := by
  unfold CharacterWidth
  revert code
  decide

theorem SioChannel.rxDataBits_of_width {q : SioChannel} {n : Nat} (h : RxWidth q n) : q.rxDataBits = n :=
  characterBits_of_width h

theorem SioChannel.txDataBits_of_width {q : SioChannel} {n : Nat} (h : TxWidth q n) : q.txDataBits = n :=
  characterBits_of_width h

theorem SioChannel.stopClocks_eq (q : SioChannel) :
    q.stopClocks = if q.wr.wr4.extractLsb' 2 2 = 0 then 0 else if q.wr.wr4.extractLsb' 2 2 = 1 then 1 else 2 := rfl

theorem SioChannel.stopClocks_of_code {q : SioChannel} {n : Nat} (h : StopClocks (q.wr.wr4.extractLsb' 2 2) n) :
    q.stopClocks = n := by
  simp only [StopClocks, List.mem_cons, Prod.mk.injEq, List.not_mem_nil, or_false] at h
  rw [q.stopClocks_eq]
  rcases h with ⟨h, rfl⟩ | ⟨h, rfl⟩ | ⟨h, rfl⟩ | ⟨h, rfl⟩ <;> rw [h] <;> rfl

theorem SioChannel.stopClocks_spec (q : SioChannel) : StopClocks (q.wr.wr4.extractLsb' 2 2) q.stopClocks := by
  rw [q.stopClocks_eq]
  generalize q.wr.wr4.extractLsb' 2 2 = code
  unfold StopClocks
  revert code
  decide

/-- The length of a frame is its character, its parity bit and its stop bits. -/
theorem FrameClocks.eq {q : SioChannel} {width frame : Nat} (h : FrameClocks q width frame) :
    frame = width + q.parityClock + q.stopClocks := by
  obtain ⟨stop, hstop, rfl⟩ := h
  rw [SioChannel.stopClocks_of_code hstop]
  rfl

theorem SioChannel.rxFrame_of_clocks {q : SioChannel} {width frame : Nat} (hw : RxWidth q width)
    (hf : FrameClocks q width frame) : q.rxFrame = frame := by
  rw [hf.eq, ← q.rxDataBits_of_width hw]
  rfl

theorem SioChannel.txFrame_of_clocks {q : SioChannel} {width frame : Nat} (hw : TxWidth q width)
    (hf : FrameClocks q width frame) : q.txFrame = frame := by
  rw [hf.eq, ← q.txDataBits_of_width hw]
  rfl

/-- A byte masked to a width is its low bits (40_contracts.md R130 (f)). -/
theorem maskToWidth_of_lowBits {width : Nat} {b v : Byte} (h : LowBits width b v) : maskToWidth width b = v := by
  refine BitVec.eq_of_getLsbD_eq fun k hk => ?_
  rw [h k, maskToWidth, BitVec.getLsbD_and, BitVec.getLsbD_ofNat, Nat.testBit_two_pow_sub_one, Bool.and_comm]
  simp [hk]

theorem SioChannel.rxValid_iff (q : SioChannel) : q.rxValid = true ↔ RxUsable q := by
  rw [SioChannel.rxValid, Bool.and_eq_true, bne_iff_ne]
  rfl

theorem SioChannel.txValid_iff (q : SioChannel) : q.txValid = true ↔ TxUsable q := by
  rw [SioChannel.txValid, Bool.and_eq_true, bne_iff_ne]
  rfl

/-! ## A byte put to the receiver (43_sio.md R228) -/

theorem exec_sioPutToReceiver (c : Side) (v : Byte) (s : State) :
    exec (.sioPutToReceiver c v) s =
      .next ((s.modSio c fun q => q.putByte v).returning (.bool (s.sio.ch c).takesByte)) := rfl

theorem SioChannel.takesByte_iff (q : SioChannel) : q.takesByte = true ↔ RxUsable q ∧ q.rxBitsRemaining = 0 := by
  rw [SioChannel.takesByte, Bool.and_eq_true, q.rxValid_iff, decide_eq_true_iff]

/-- A usable, idle receiver takes the byte. -/
theorem exec_sioPutToReceiver_of_taken (s : State) (c : Side) (v : Byte) (hu : RxUsable (s.sio.ch c))
    (hi : (s.sio.ch c).rxBitsRemaining = 0) :
    exec (.sioPutToReceiver c v) s = .next { s with
      sio := s.sio.setCh c { s.sio.ch c with
        rxShiftBuffer := v, rxBitsRemaining := (s.sio.ch c).rxFrame, rxDivAcc := 0 }
      reply := .bool true } := by
  have htakes : (s.sio.ch c).takesByte = true := (s.sio.ch c).takesByte_iff.mpr ⟨hu, hi⟩
  rcases (s.sio.ch c).putByte_spec v with ⟨-, he⟩ | ⟨hno, -⟩
  · rw [exec_sioPutToReceiver, State.modSio, he, htakes]
    rfl
  · simp [htakes] at hno

/-- Settles O41: the receiver takes a byte exactly when it is usable and idle. -/
theorem putToReceiverStartsFrame : Obligations.PutToReceiverStartsFrame := by
  unfold Obligations.PutToReceiverStartsFrame
  intro s c v
  constructor
  · intro hu hi
    exact ⟨(s.sio.ch c).rxDataBits, (s.sio.ch c).rxFrame, characterWidth_characterBits _,
      ⟨_, (s.sio.ch c).stopClocks_spec, rfl⟩, exec_sioPutToReceiver_of_taken s c v hu hi⟩
  · intro h
    have hlost : (s.sio.ch c).takesByte = false := by
      rw [Bool.eq_false_iff, Ne, SioChannel.takesByte_iff]
      rintro ⟨hu, hi⟩
      rcases h with hno | hbusy
      · exact hno hu
      · exact absurd hi (Nat.ne_of_gt hbusy)
    rcases (s.sio.ch c).putByte_spec v with ⟨htakes, -⟩ | ⟨-, he⟩
    · simp [hlost] at htakes
    · rw [exec_sioPutToReceiver, State.modSio, he, hlost, Sio.setCh_ch]
      rfl

/-! ## Batches of shift clocks (43_sio.md R229, R232) -/

theorem exec_sioClockPulseReceiver (c : Side) (n : Nat) (s : State) :
    exec (.sioClockPulseReceiver c n) s = .next (s.sioRun (repeatPulse (sioRxPulse c) n s.sio)) := rfl

theorem exec_sioClockPulseSender (c : Side) (n : Nat) (s : State) :
    exec (.sioClockPulseSender c n) s = .next (s.sioRun (repeatPulse (sioTxPulse c) n s.sio)) := rfl

/-- The receive pulse as a step that emits nothing. -/
def SioChannel.rxStep (q : SioChannel) : SioChannel × List Event := (q.rxPulse, [])

/-- A batch of pulses of one channel of the device. -/
theorem repeatPulse_sioRxPulse (c : Side) (n : Nat) (d : Sio) :
    repeatPulse (sioRxPulse c) n d =
      (d.setCh c (repeatPulse SioChannel.rxStep n (d.ch c)).1, (repeatPulse SioChannel.rxStep n (d.ch c)).2) := by
  induction n generalizing d with
  | zero => simp
  | succ n ih =>
    rw [repeatPulse_succ, repeatPulse_succ, ih]
    simp only [sioRxPulse, SioChannel.rxStep, Sio.ch_setCh_self, Sio.setCh_setCh]

theorem repeatPulse_sioTxPulse (c : Side) (n : Nat) (d : Sio) :
    repeatPulse (sioTxPulse c) n d =
      (d.setCh c (repeatPulse (SioChannel.txPulse c) n (d.ch c)).1,
        (repeatPulse (SioChannel.txPulse c) n (d.ch c)).2) := by
  induction n generalizing d with
  | zero => simp
  | succ n ih =>
    rw [repeatPulse_succ, repeatPulse_succ, ih]
    simp only [sioTxPulse, Sio.ch_setCh_self, Sio.setCh_setCh]

/-- A shifter on the system clock takes one pulse, one on an external clock none. -/
theorem onSystemClock_eq (src : ClockSource) (f : Sio → Sio × List Event) (d : Sio) :
    onSystemClock src f d = repeatPulse f (if src = .systemClock then 1 else 0) d := by
  cases src with
  | systemClock => exact (repeatPulse_one f d).symm
  | external => rfl

/-- Settles O44: batches come apart by `repeatPulse_add`, the system clock's pulse is the four shifters' pulses. -/
theorem shiftClocksComeOneAtATime : Obligations.ShiftClocksComeOneAtATime := by
  unfold Obligations.ShiftClocksComeOneAtATime
  refine ⟨fun s c => ⟨?_, ?_⟩, fun s c n => ⟨⟨_, _, rfl, rfl, ?_⟩, ⟨_, _, rfl, rfl, ?_⟩⟩,
    fun s => ⟨_, _, _, _, rfl, rfl, rfl, rfl, ?_⟩⟩
  · exact congrArg _ (s.sioRun_silent s.sio)
  · exact congrArg _ (s.sioRun_silent s.sio)
  · rw [Nat.add_comm n 1]
    exact congrArg _ (s.sioRun_batches (sioRxPulse c) 1 n).symm
  · rw [Nat.add_comm n 1]
    exact congrArg _ (s.sioRun_batches (sioTxPulse c) 1 n).symm
  · rw [exec_sioOnClockPulses, show (1 : BitVec 32).toNat = 1 from rfl, repeatPulse_one]
    simp only [State.sioRun_sioRun, State.sioRun_sio, sioPulse, andThen, onSystemClock_eq, List.append_assoc]

end Sys2Proof.Machine

/-! PROOFS. The pulses of the SIO's shifters and the frames they make (43_sio.md R229 to R233). -/

namespace Sys2Proof.Machine

/-! ## The end of a received frame (43_sio.md R230, R231) -/

/-- What the receive interrupt mode makes of a byte received. -/
theorem SioChannel.receiveInterrupt_eq (q : SioChannel) :
    q.receiveInterrupt = { q with
      rxRequested := q.rxRequested ||
        (if q.wr.wr1.extractLsb' 3 2 = 0 then false
          else if q.wr.wr1.extractLsb' 3 2 = 1 then q.rxFirstCharArmed else true)
      rxFirstCharArmed := if q.wr.wr1.extractLsb' 3 2 = 1 then false else q.rxFirstCharArmed } := by
  have hmode : q.receiveInterrupt =
      if q.wr.wr1.extractLsb' 3 2 = 0 then q
      else if q.wr.wr1.extractLsb' 3 2 = 1 then
        { q with rxRequested := q.rxRequested || q.rxFirstCharArmed, rxFirstCharArmed := false }
      else { q with rxRequested := true } := rfl
  rw [hmode]
  by_cases h0 : q.wr.wr1.extractLsb' 3 2 = 0
  · simp [h0]
  · by_cases h1 : q.wr.wr1.extractLsb' 3 2 = 1
    · simp [h1]
    · simp only [h0, h1, if_false, Bool.or_true]

/-- The byte enters the FIFO, or with three entries replaces the last one, tagged. -/
def SioChannel.storeReceived (q : SioChannel) (v : Byte) : SioChannel :=
  { q with
    receiveFifo :=
      if q.receiveFifoLen = 0 then { q.receiveFifo with e0 := ⟨v, false⟩ }
      else if q.receiveFifoLen = 1 then { q.receiveFifo with e1 := ⟨v, false⟩ }
      else { q.receiveFifo with e2 := ⟨v, decide (q.receiveFifoLen = 3)⟩ }
    receiveFifoLen := if q.receiveFifoLen = 3 then 3 else q.receiveFifoLen + 1
    rxOverrunLatch := q.rxOverrunLatch || decide (q.receiveFifoLen = 3) }

theorem SioChannel.receiveComplete_eq (q : SioChannel) (v : Byte) (hlen : q.receiveFifoLen ≤ 3)
    (hv : maskToWidth q.rxDataBits q.rxShiftBuffer = v) : q.receiveComplete = (q.storeReceived v).receiveInterrupt := by
  rw [SioChannel.receiveComplete, SioChannel.storeReceived, hv, show Config.fifoDepth = 3 from rfl]
  congr 1
  have hcases : q.receiveFifoLen = 0 ∨ q.receiveFifoLen = 1 ∨ q.receiveFifoLen = 2 ∨ q.receiveFifoLen = 3 := by omega
  rcases hcases with h | h | h | h <;> simp [h, RxFifo.set]

/-- With room in the FIFO the byte is its new last entry. -/
theorem SioChannel.receiveComplete_of_room (q : SioChannel) (hlen : q.receiveFifoLen < 3) :
    q.receiveComplete.rxBitsRemaining = q.rxBitsRemaining ∧ q.receiveComplete.receiveFifoLen = q.receiveFifoLen + 1 ∧
      q.receiveComplete.receiveFifo =
        q.receiveFifo.set q.receiveFifoLen ⟨maskToWidth q.rxDataBits q.rxShiftBuffer, false⟩ := by
  have hroom : q.receiveFifoLen < Config.fifoDepth := hlen
  rw [SioChannel.receiveComplete, SioChannel.receiveInterrupt_eq, if_pos hroom]
  exact ⟨rfl, rfl, rfl⟩

/-! ## One pulse of the receive clock (43_sio.md R229) -/

theorem SioChannel.rxPulse_of_dividing (q : SioChannel) (hb : 0 < q.rxBitsRemaining)
    (hd : q.rxDivAcc + 1 < q.clockDiv) :
    q.rxPulse = { q with rxDivAcc := q.rxDivAcc + 1 } := by
  rcases q.rxPulse_spec with ⟨h, -⟩ | ⟨-, -, he⟩ | ⟨-, h, -⟩ | ⟨-, h, -⟩
  · omega
  · exact he
  · omega
  · omega

theorem SioChannel.rxPulse_of_shifting (q : SioChannel) (hb : 1 < q.rxBitsRemaining)
    (hd : q.clockDiv ≤ q.rxDivAcc + 1) :
    q.rxPulse = { q with rxDivAcc := 0, rxBitsRemaining := q.rxBitsRemaining - 1 } := by
  rcases q.rxPulse_spec with ⟨h, -⟩ | ⟨-, h, -⟩ | ⟨-, -, he⟩ | ⟨h, -, -⟩
  · omega
  · omega
  · exact he
  · omega

theorem SioChannel.rxPulse_of_last (q : SioChannel) (hb : q.rxBitsRemaining = 1) (hd : q.clockDiv ≤ q.rxDivAcc + 1) :
    q.rxPulse = SioChannel.receiveComplete { q with rxDivAcc := 0, rxBitsRemaining := 0 } := by
  rcases q.rxPulse_spec with ⟨h, -⟩ | ⟨-, h, -⟩ | ⟨h, -, -⟩ | ⟨-, -, he⟩
  · omega
  · omega
  · omega
  · exact he

theorem exec_sioClockPulseReceiver_one (s : State) (c : Side) :
    exec (.sioClockPulseReceiver c 1) s = .next { s with
      sio := s.sio.setCh c (s.sio.ch c).rxPulse, reply := .unit } := by
  rw [exec_sioClockPulseReceiver, repeatPulse_one]
  exact congrArg _ (s.sioRun_silent _)

/-- Settles O42: the four cases of the receive pulse. -/
theorem receivePulseShiftsOrCompletes : Obligations.ReceivePulseShiftsOrCompletes := by
  unfold Obligations.ReceivePulseShiftsOrCompletes
  intro s c div width v hlen hdiv hwidth hv
  rw [← SioChannel.clockDiv_of_divisor hdiv, exec_sioClockPulseReceiver_one]
  refine ⟨fun hb => ?_, fun hb hd => ?_, fun hb hd => ?_, fun hb hd => ?_⟩
  · have hidle : (s.sio.ch c).rxPulse = s.sio.ch c := if_pos hb
    rw [hidle, Sio.setCh_ch]
  · rw [SioChannel.rxPulse_of_dividing _ hb hd]
  · rw [SioChannel.rxPulse_of_shifting _ hb hd]
  · have hmask : maskToWidth (s.sio.ch c).rxDataBits (s.sio.ch c).rxShiftBuffer = v := by
      rw [SioChannel.rxDataBits_of_width hwidth]
      exact maskToWidth_of_lowBits hv
    rw [SioChannel.rxPulse_of_last _ hb hd,
      SioChannel.receiveComplete_eq { s.sio.ch c with rxDivAcc := 0, rxBitsRemaining := 0 } v hlen hmask,
      SioChannel.receiveInterrupt_eq]
    rfl

/-! ## One pulse of the transmit clock (43_sio.md R232, R233) -/

theorem SioChannel.txPulse_of_silent (c : Side) (q : SioChannel) (h : q.txBufferEmpty = true ∨ q.txValid = false) :
    q.txPulse c = (q, []) := by
  have hsilent : (q.txBufferEmpty || !q.txValid) = true := by
    rw [Bool.or_eq_true, Bool.not_eq_true']
    exact h
  exact if_pos hsilent

section
variable (c : Side) (q : SioChannel) (hfull : q.txBufferEmpty = false) (hvalid : q.txValid = true)
include hfull hvalid

theorem SioChannel.txPulse_of_dividing (hd : q.startFrame.txDivAcc + 1 < q.clockDiv) :
    q.txPulse c = ({ q.startFrame with txDivAcc := q.startFrame.txDivAcc + 1 }, []) := by
  rcases q.txPulse_spec c with ⟨h, -⟩ | ⟨-, -, -, he⟩ | ⟨-, -, h, -⟩ | ⟨-, -, h, -⟩
  · simp [hfull, hvalid] at h
  · exact he
  · omega
  · omega

theorem SioChannel.txPulse_of_shifting (hd : q.clockDiv ≤ q.startFrame.txDivAcc + 1)
    (hb : 1 < q.startFrame.txBitsRemaining) :
    q.txPulse c = ({ q.startFrame with txDivAcc := 0, txBitsRemaining := q.startFrame.txBitsRemaining - 1 }, []) := by
  rcases q.txPulse_spec c with ⟨h, -⟩ | ⟨-, -, h, -⟩ | ⟨-, -, -, -, he⟩ | ⟨-, -, -, h, -⟩
  · simp [hfull, hvalid] at h
  · omega
  · exact he
  · omega

theorem SioChannel.txPulse_of_last (hd : q.clockDiv ≤ q.startFrame.txDivAcc + 1)
    (hb : q.startFrame.txBitsRemaining ≤ 1) :
    q.txPulse c =
      (SioChannel.transmitComplete { q.startFrame with txDivAcc := 0, txBitsRemaining := 0 },
        [.byteTransmitted c (maskToWidth q.txDataBits q.txBuffer)]) := by
  rcases q.txPulse_spec c with ⟨h, -⟩ | ⟨-, -, h, -⟩ | ⟨-, -, -, h, -⟩ | ⟨-, -, -, -, he⟩
  · simp [hfull, hvalid] at h
  · omega
  · omega
  · exact he

end

theorem exec_sioClockPulseSender_one (s : State) (c : Side) {q : SioChannel} {es : List Event}
    (h : (s.sio.ch c).txPulse c = (q, es)) :
    exec (.sioClockPulseSender c 1) s = .next { s with
      sio := s.sio.setCh c q, trace := s.trace ++ es, reply := .unit } := by
  rw [exec_sioClockPulseSender, repeatPulse_one, sioTxPulse, h]
  rfl

/-- Settles O43: the four cases of the transmit pulse, from the frame that is under way or starts. -/
theorem transmitPulseShiftsOrCompletes : Obligations.TransmitPulseShiftsOrCompletes := by
  unfold Obligations.TransmitPulseShiftsOrCompletes
  intro s c
  constructor
  · intro h
    have hsilent : (s.sio.ch c).txBufferEmpty = true ∨ (s.sio.ch c).txValid = false :=
      h.imp_right fun hu => by rwa [Bool.eq_false_iff, Ne, SioChannel.txValid_iff]
    rw [exec_sioClockPulseSender_one s c (SioChannel.txPulse_of_silent c _ hsilent), Sio.setCh_ch, List.append_nil]
  · intro div width frame bits acc v hdiv hwidth hframe hv hbits hacc hfull hu
    have hvalid : (s.sio.ch c).txValid = true := (s.sio.ch c).txValid_iff.mpr hu
    have hstart : (s.sio.ch c).startFrame = { s.sio.ch c with txBitsRemaining := bits, txDivAcc := acc } := by
      rw [SioChannel.startFrame_spec, SioChannel.txFrame_of_clocks hwidth hframe, ← hbits, ← hacc]
    have hmask : maskToWidth (s.sio.ch c).txDataBits (s.sio.ch c).txBuffer = v := by
      rw [SioChannel.txDataBits_of_width hwidth]
      exact maskToWidth_of_lowBits hv
    rw [← SioChannel.clockDiv_of_divisor hdiv]
    refine ⟨fun hd => ?_, fun hd hb => ?_, fun hd hb => ?_⟩
    · have hpulse := SioChannel.txPulse_of_dividing c _ hfull hvalid (by rw [hstart]; exact hd)
      rw [exec_sioClockPulseSender_one s c hpulse, hstart, List.append_nil]
    · have hpulse := SioChannel.txPulse_of_shifting c _ hfull hvalid (by rw [hstart]; exact hd)
        (by rw [hstart]; exact hb)
      rw [exec_sioClockPulseSender_one s c hpulse, hstart, List.append_nil]
    · have hpulse := SioChannel.txPulse_of_last c _ hfull hvalid (by rw [hstart]; exact hd)
        (by rw [hstart]; exact Nat.le_of_eq hb)
      rw [exec_sioClockPulseSender_one s c hpulse, hstart, hmask]
      rfl

/-! ## A whole frame, pulse by pulse

A shifter's place in its frame is the number of bit times done and of pulses into the next one. A pulse within a bit
time moves the second number; the one that ends it, but for the last, moves the first. -/

section
variable {α : Type} {f : α → α × List Event} {place : Nat → Nat → α} {frame div : Nat}
  (hwithin : ∀ done acc, done < frame → acc + 1 < div → f (place done acc) = (place done (acc + 1), []))
  (hbit : ∀ done acc, done + 1 < frame → acc + 1 = div → f (place done acc) = (place (done + 1) 0, []))
include hwithin hbit

/-- Before the last pulse of the frame the shifter is at the place its number of pulses gives, and nothing is
emitted. -/
theorem repeatPulse_within_frame (k : Nat) (hk : k < frame * div) :
    ∃ done acc, done < frame ∧ acc < div ∧ done * div + acc = k ∧
      repeatPulse f k (place 0 0) = (place done acc, []) := by
  induction k with
  | zero =>
    have hframe : 0 < frame := Nat.pos_of_mul_pos_right hk
    have hdiv : 0 < div := Nat.pos_of_mul_pos_left hk
    exact ⟨0, 0, hframe, hdiv, by simp, rfl⟩
  | succ k ih =>
    obtain ⟨done, acc, hdone, hacc, hsum, hrun⟩ := ih (by omega)
    rw [repeatPulse_add, hrun, repeatPulse_one]
    by_cases hlast : acc + 1 < div
    · exact ⟨done, acc + 1, hdone, hlast, by omega, by rw [hwithin done acc hdone hlast]; rfl⟩
    · have hend : acc + 1 = div := by omega
      have hplace : (done + 1) * div = k + 1 := by rw [Nat.succ_mul]; omega
      have hmore : done + 1 < frame := Nat.lt_of_mul_lt_mul_right (a := div) (by omega)
      exact ⟨done + 1, 0, hmore, by omega, by omega, by rw [hbit done acc hmore hend]; rfl⟩

/-- The last pulse of the frame comes at the end of its last bit time. -/
theorem repeatPulse_whole_frame (hpos : 0 < frame * div) {r : α × List Event}
    (hlast : ∀ done acc, done + 1 = frame → acc + 1 = div → f (place done acc) = r) :
    repeatPulse f (frame * div) (place 0 0) = r := by
  obtain ⟨k, hk⟩ : ∃ k, frame * div = k + 1 := Nat.exists_eq_add_one_of_ne_zero (Nat.ne_of_gt hpos)
  obtain ⟨done, acc, hdone, hacc, hsum, hrun⟩ := repeatPulse_within_frame hwithin hbit k (by omega)
  have hle : (done + 1) * div ≤ frame * div := Nat.mul_le_mul_right div hdone
  rw [Nat.succ_mul] at hle
  have hend : acc + 1 = div := by omega
  have hframe : done + 1 = frame := by
    have hdiv : 0 < div := by omega
    exact Nat.eq_of_mul_eq_mul_right hdiv (by rw [Nat.succ_mul]; omega)
  rw [hk, repeatPulse_add, hrun, repeatPulse_one, hlast done acc hframe hend]
  rfl

end

/-! ## A received frame (43_sio.md R228 to R230) -/

/-- Channel `q` at a place in a received frame. -/
def SioChannel.rxPlace (q : SioChannel) (frame done acc : Nat) : SioChannel :=
  { q with rxBitsRemaining := frame - done, rxDivAcc := acc }

theorem SioChannel.rxStep_within (q : SioChannel) (frame done acc : Nat) (hd : done < frame)
    (ha : acc + 1 < q.clockDiv) :
    (q.rxPlace frame done acc).rxStep = (q.rxPlace frame done (acc + 1), []) := by
  rw [SioChannel.rxStep, SioChannel.rxPulse_of_dividing _ (Nat.sub_pos_of_lt hd) ha]
  rfl

theorem SioChannel.rxStep_bit (q : SioChannel) (frame done acc : Nat) (hd : done + 1 < frame)
    (ha : acc + 1 = q.clockDiv) :
    (q.rxPlace frame done acc).rxStep = (q.rxPlace frame (done + 1) 0, []) := by
  rw [SioChannel.rxStep, SioChannel.rxPulse_of_shifting _ (show 1 < frame - done by omega) (Nat.le_of_eq ha.symm)]
  rfl

theorem SioChannel.rxStep_last (q : SioChannel) (frame done acc : Nat) (hd : done + 1 = frame)
    (ha : acc + 1 = q.clockDiv) :
    (q.rxPlace frame done acc).rxStep =
      (SioChannel.receiveComplete { q with rxDivAcc := 0, rxBitsRemaining := 0 }, []) := by
  rw [SioChannel.rxStep, SioChannel.rxPulse_of_last _ (show frame - done = 1 by omega) (Nat.le_of_eq ha.symm)]
  rfl

/-- What a batch of receive pulses leaves of its channel. -/
theorem ch_of_receiverPulses (t : State) (c : Side) (k : Nat) :
    (t.sioRun (repeatPulse (sioRxPulse c) k t.sio)).sio.ch c = (repeatPulse SioChannel.rxStep k (t.sio.ch c)).1 := by
  rw [State.sioRun_sio, repeatPulse_sioRxPulse, Sio.ch_setCh_self]

/-- What a frame under way has not touched. -/
theorem SioChannel.receiving (q : SioChannel) (frame k : Nat) (hk : k < frame * q.clockDiv) :
    ∃ done acc, done < frame ∧
      repeatPulse SioChannel.rxStep k (q.rxPlace frame 0 0) = (q.rxPlace frame done acc, []) := by
  obtain ⟨done, acc, hdone, -, -, hrun⟩ := repeatPulse_within_frame (q.rxStep_within frame) (q.rxStep_bit frame) k hk
  exact ⟨done, acc, hdone, hrun⟩

/-- A frame received to its end. -/
theorem SioChannel.received (q : SioChannel) (frame : Nat) (hpos : 0 < frame * q.clockDiv) :
    repeatPulse SioChannel.rxStep (frame * q.clockDiv) (q.rxPlace frame 0 0) =
      (SioChannel.receiveComplete { q with rxDivAcc := 0, rxBitsRemaining := 0 }, []) :=
  repeatPulse_whole_frame (q.rxStep_within frame) (q.rxStep_bit frame) hpos (q.rxStep_last frame)

/-- Settles O45: the frame's place after each pulse, and its end with the last. -/
theorem receivedByteArrivesAfterItsFrame : Obligations.ReceivedByteArrivesAfterItsFrame := by
  unfold Obligations.ReceivedByteArrivesAfterItsFrame
  intro s t c v w div width frame hu hi hroom hdiv hwidth hframe hw ht
  obtain rfl := SioChannel.clockDiv_of_divisor hdiv
  obtain rfl := SioChannel.rxFrame_of_clocks hwidth hframe
  have htch : t.sio.ch c = ({ s.sio.ch c with rxShiftBuffer := v } : SioChannel).rxPlace (s.sio.ch c).rxFrame 0 0 := by
    obtain rfl := Host.Outcome.next.inj (ht.symm.trans (exec_sioPutToReceiver_of_taken s c v hu hi))
    exact s.sio.ch_setCh_self c _
  refine ⟨fun k hk => ⟨_, exec_sioClockPulseReceiver c k t, ?_⟩, ⟨_, exec_sioClockPulseReceiver c _ t, ?_⟩⟩
  · obtain ⟨done, acc, hdone, hrun⟩ := SioChannel.receiving { s.sio.ch c with rxShiftBuffer := v } _ k hk
    rw [ch_of_receiverPulses, htch, hrun]
    exact ⟨rfl, rfl, rfl, Nat.sub_pos_of_lt hdone⟩
  · have hpos : 0 < (s.sio.ch c).rxFrame * (s.sio.ch c).clockDiv :=
      Nat.mul_pos (Nat.lt_of_lt_of_le (by decide) (s.sio.ch c).rxFrame_range.1) (s.sio.ch c).clockDiv_range.1
    have hrun := SioChannel.received { s.sio.ch c with rxShiftBuffer := v } _ hpos
    obtain ⟨hbits, hlen, hfifo⟩ := SioChannel.receiveComplete_of_room
      { s.sio.ch c with rxShiftBuffer := v, rxDivAcc := 0, rxBitsRemaining := 0 } hroom
    have hmask : maskToWidth (s.sio.ch c).rxDataBits v = w := by
      rw [SioChannel.rxDataBits_of_width hwidth]
      exact maskToWidth_of_lowBits hw
    rw [ch_of_receiverPulses, htch]
    refine ⟨(congrArg (·.1.rxBitsRemaining) hrun).trans hbits, (congrArg (·.1.receiveFifoLen) hrun).trans hlen,
      (congrArg (·.1.receiveFifo) hrun).trans (hfifo.trans ?_)⟩
    rw [← hmask]
    rfl

/-! ## A transmitted frame (43_sio.md R232, R233) -/

/-- Channel `q` at a place in a transmitted frame. -/
def SioChannel.txPlace (q : SioChannel) (frame done acc : Nat) : SioChannel :=
  { q with txBitsRemaining := frame - done, txDivAcc := acc }

theorem SioChannel.startFrame_txPlace (q : SioChannel) {frame done : Nat} (acc : Nat) (hd : done < frame) :
    (q.txPlace frame done acc).startFrame = q.txPlace frame done acc :=
  if_neg (Nat.sub_ne_zero_of_lt hd)

section
variable (c : Side) (q : SioChannel) (hfull : q.txBufferEmpty = false) (hvalid : q.txValid = true)
include hfull hvalid

theorem SioChannel.txPulse_within (frame done acc : Nat) (hd : done < frame) (ha : acc + 1 < q.clockDiv) :
    (q.txPlace frame done acc).txPulse c = (q.txPlace frame done (acc + 1), []) := by
  have hstart := q.startFrame_txPlace acc hd
  rw [SioChannel.txPulse_of_dividing c (q.txPlace frame done acc) hfull hvalid (by rw [hstart]; exact ha), hstart]
  rfl

theorem SioChannel.txPulse_bit (frame done acc : Nat) (hd : done + 1 < frame) (ha : acc + 1 = q.clockDiv) :
    (q.txPlace frame done acc).txPulse c = (q.txPlace frame (done + 1) 0, []) := by
  have hstart := q.startFrame_txPlace acc (Nat.lt_of_succ_lt hd)
  have hbits : 1 < (q.txPlace frame done acc).txBitsRemaining := show 1 < frame - done by omega
  rw [SioChannel.txPulse_of_shifting c (q.txPlace frame done acc) hfull hvalid
    (by rw [hstart]; exact Nat.le_of_eq ha.symm)
    (by rw [hstart]; exact hbits), hstart]
  rfl

theorem SioChannel.txPulse_end (frame done acc : Nat) (hd : done + 1 = frame) (ha : acc + 1 = q.clockDiv) :
    (q.txPlace frame done acc).txPulse c =
      (SioChannel.transmitComplete { q with txDivAcc := 0, txBitsRemaining := 0 },
        [.byteTransmitted c (maskToWidth q.txDataBits q.txBuffer)]) := by
  have hstart := q.startFrame_txPlace acc (Nat.lt_of_succ_le (Nat.le_of_eq hd))
  have hbits : (q.txPlace frame done acc).txBitsRemaining ≤ 1 := show frame - done ≤ 1 by omega
  rw [SioChannel.txPulse_of_last c (q.txPlace frame done acc) hfull hvalid (by rw [hstart]; exact Nat.le_of_eq ha.symm)
    (by rw [hstart]; exact hbits), hstart]
  rfl

/-- Without a frame under way the pulse is that of a frame just started. -/
theorem SioChannel.txPulse_of_idle (h : q.txBitsRemaining = 0) :
    q.txPulse c = (q.txPlace q.txFrame 0 0).txPulse c := by
  have hframe : 0 < q.txFrame := Nat.lt_of_lt_of_le (by decide) q.txFrame_range.1
  have hstart : q.startFrame = (q.txPlace q.txFrame 0 0).startFrame :=
    (if_pos h).trans (q.startFrame_txPlace 0 hframe).symm
  have hgo : ¬ (q.txBufferEmpty || !q.txValid) = true := by simp [hfull, hvalid]
  have hgo' : ¬ ((q.txPlace q.txFrame 0 0).txBufferEmpty || !(q.txPlace q.txFrame 0 0).txValid) = true := hgo
  unfold SioChannel.txPulse
  rw [if_neg hgo, if_neg hgo', hstart]

/-- A batch that begins with no frame under way begins one. -/
theorem SioChannel.txPulses_of_idle (h : q.txBitsRemaining = 0) (k : Nat) :
    repeatPulse (SioChannel.txPulse c) (k + 1) q =
      repeatPulse (SioChannel.txPulse c) (k + 1) (q.txPlace q.txFrame 0 0) := by
  rw [repeatPulse_succ, repeatPulse_succ, SioChannel.txPulse_of_idle c q hfull hvalid h]

/-- Before the frame's last pulse nothing is emitted and the buffer is full. -/
theorem SioChannel.transmitting (h : q.txBitsRemaining = 0) (k : Nat) (hk : k < q.txFrame * q.clockDiv) :
    ∃ q', repeatPulse (SioChannel.txPulse c) k q = (q', []) ∧ q'.txBufferEmpty = false := by
  cases k with
  | zero => exact ⟨q, rfl, hfull⟩
  | succ k =>
    obtain ⟨done, acc, -, -, -, hrun⟩ := repeatPulse_within_frame (SioChannel.txPulse_within c q hfull hvalid q.txFrame)
      (SioChannel.txPulse_bit c q hfull hvalid q.txFrame) (k + 1) hk
    exact ⟨_, (SioChannel.txPulses_of_idle c q hfull hvalid h k).trans hrun, hfull⟩

/-- The frame's last pulse is its end. -/
theorem SioChannel.transmitted (h : q.txBitsRemaining = 0) :
    repeatPulse (SioChannel.txPulse c) (q.txFrame * q.clockDiv) q =
      (SioChannel.transmitComplete { q with txDivAcc := 0, txBitsRemaining := 0 },
        [.byteTransmitted c (maskToWidth q.txDataBits q.txBuffer)]) := by
  have hpos : 0 < q.txFrame * q.clockDiv :=
    Nat.mul_pos (Nat.lt_of_lt_of_le (by decide) q.txFrame_range.1) q.clockDiv_range.1
  have hrun := repeatPulse_whole_frame (SioChannel.txPulse_within c q hfull hvalid q.txFrame)
    (SioChannel.txPulse_bit c q hfull hvalid q.txFrame) hpos (SioChannel.txPulse_end c q hfull hvalid q.txFrame)
  obtain ⟨k, hk⟩ : ∃ k, q.txFrame * q.clockDiv = k + 1 := Nat.exists_eq_add_one_of_ne_zero (Nat.ne_of_gt hpos)
  rw [hk] at hrun ⊢
  rw [SioChannel.txPulses_of_idle c q hfull hvalid h, hrun]

end

/-- What a batch of transmit pulses leaves of its channel and emits. -/
theorem State.senderPulses_eq (t : State) (c : Side) (k : Nat) {q : SioChannel} {es : List Event}
    (h : repeatPulse (SioChannel.txPulse c) k (t.sio.ch c) = (q, es)) :
    (t.sioRun (repeatPulse (sioTxPulse c) k t.sio)).sio.ch c = q ∧
      (t.sioRun (repeatPulse (sioTxPulse c) k t.sio)).trace = t.trace ++ es := by
  rw [repeatPulse_sioTxPulse, h]
  exact ⟨t.sio.ch_setCh_self c q, rfl⟩

/-- Settles O46: nothing is emitted before the frame's last pulse, which emits the byte. -/
theorem writtenByteLeavesAfterItsFrame : Obligations.WrittenByteLeavesAfterItsFrame := by
  unfold Obligations.WrittenByteLeavesAfterItsFrame
  intro s t c v w div width frame hu hi hdiv hwidth hframe hw ht
  obtain rfl := SioChannel.clockDiv_of_divisor hdiv
  obtain rfl := SioChannel.txFrame_of_clocks hwidth hframe
  obtain rfl := Host.Outcome.next.inj ht
  have hvalid : (s.sio.ch c).txValid = true := (s.sio.ch c).txValid_iff.mpr hu
  have hch : ((s.modSio c fun q => { q with txBuffer := v, txBufferEmpty := false }).returning .unit).sio.ch c =
      { s.sio.ch c with txBuffer := v, txBufferEmpty := false } := s.sio.ch_setCh_self c _
  refine ⟨fun k hk => ⟨_, exec_sioClockPulseSender c k _, ?_⟩, ⟨_, exec_sioClockPulseSender c _ _, ?_⟩⟩
  · obtain ⟨q', hrun, hfull⟩ :=
      SioChannel.transmitting c { s.sio.ch c with txBuffer := v, txBufferEmpty := false } rfl hvalid hi k hk
    obtain ⟨hsio, htrace⟩ := State.senderPulses_eq _ c k ((congrArg _ hch).trans hrun)
    rw [hsio, htrace]
    exact ⟨List.append_nil _, hfull⟩
  · have hmask : maskToWidth (s.sio.ch c).txDataBits v = w := by
      rw [SioChannel.txDataBits_of_width hwidth]
      exact maskToWidth_of_lowBits hw
    have hrun := SioChannel.transmitted c { s.sio.ch c with txBuffer := v, txBufferEmpty := false } rfl hvalid hi
    obtain ⟨hsio, htrace⟩ := State.senderPulses_eq _ c _ ((congrArg _ hch).trans hrun)
    refine ⟨htrace.trans ?_, (congrArg _ hsio).trans rfl, (congrArg _ hsio).trans rfl⟩
    rw [← hmask]
    rfl

end Sys2Proof.Machine

/-! PROOFS. What the three devices share: resets and reports (40_contracts.md R128; 70_reset_and_hazards.md), queries,
acceptances and returns (40_contracts.md R123 to R127), and the chain (60_exceptions.md R275 to R277). -/

namespace Sys2Proof.Machine

/-! ## Resets and reports -/

theorem exec_ctcReset (powerOn : Bool) (s : State) :
    exec (.ctcReset powerOn) s = .next (s.ctcRun (s.ctc.resetDevice powerOn, [])) := rfl

theorem exec_pioReset (powerOn : Bool) (s : State) :
    exec (.pioReset powerOn) s = .next (s.pioRun (s.pio.resetDevice powerOn, []) .unit) := rfl

theorem exec_sioReset (powerOn : Bool) (s : State) :
    exec (.sioReset powerOn) s = .next (s.sioRun (s.sio.resetDevice powerOn, [])) := rfl

theorem Ctc.ch_resetDevice (d : Ctc) (powerOn : Bool) (i : CtcIx) :
    (d.resetDevice powerOn).ch i = (d.ch i).resetChannel powerOn := by
  cases i <;> rfl

theorem Pio.port_resetDevice (d : Pio) (powerOn : Bool) (p : Side) :
    (d.resetDevice powerOn).port p = (d.port p).resetPort powerOn := by
  cases p <;> rfl

theorem Sio.ch_resetDevice (d : Sio) (powerOn : Bool) (c : Side) :
    (d.resetDevice powerOn).ch c = (d.ch c).resetChannel powerOn := by
  cases c <;> rfl

/-- Settles O48: each device's reset is the reset of its channels or ports. -/
theorem resetClearsDevices : Obligations.ResetClearsDevices := by
  unfold Obligations.ResetClearsDevices
  refine ⟨fun s powerOn => ⟨s.ctc.resetDevice powerOn, ?_, rfl, fun i => s.ctc.ch_resetDevice powerOn i⟩,
    fun s powerOn => ⟨s.pio.resetDevice powerOn, ?_, rfl, fun p => (s.pio.port_resetDevice powerOn p).trans ?_⟩,
    fun s powerOn => ⟨s.sio.resetDevice powerOn, ?_, fun c => (s.sio.ch_resetDevice powerOn c).trans ?_⟩⟩
  · rw [exec_ctcReset, State.ctcRun_silent]
  · rw [exec_pioReset, State.pioRun_silent]
  · cases powerOn <;> rfl
  · rw [exec_sioReset, State.sioRun_silent]
  · cases powerOn <;> rfl

/-- Settles O49: the status bytes of the report are those a read assembles. -/
theorem snapshotReportsWholeDevice : Obligations.SnapshotReportsWholeDevice := by
  unfold Obligations.SnapshotReportsWholeDevice
  intro s
  exact ⟨rfl, rfl, s.rr0 .a, s.sio.chA.rr1, s.rr0 .b, s.sio.chB.rr1, s.isRr0_rr0 .a, s.isRr1_rr1 .a, s.isRr0_rr0 .b,
    s.isRr1_rr1 .b, rfl⟩

/-! ## Queries (40_contracts.md R124, R125) -/

theorem exists_mem_sources_ctc {P : Source → Prop} : (∃ x ∈ sources .ctc, P x) ↔ ∃ i, P (.ctc i) := by
  constructor
  · rintro ⟨x, hx, hp⟩
    obtain ⟨i, rfl⟩ := exists_ctc_of_mem_sources x hx
    exact ⟨i, hp⟩
  · rintro ⟨i, hp⟩
    exact ⟨_, mem_sources_ctc i, hp⟩

theorem exists_mem_sources_pio {P : Source → Prop} : (∃ x ∈ sources .pio, P x) ↔ ∃ p, P (.pio p) := by
  constructor
  · rintro ⟨x, hx, hp⟩
    have hdevice := (mem_sources_iff x .pio).mp hx
    cases x with
    | pio p => exact ⟨p, hp⟩
    | ctc | sio => cases hdevice
  · rintro ⟨p, hp⟩
    exact ⟨_, mem_sources_pio p, hp⟩

theorem exists_mem_sources_sio {P : Source → Prop} : (∃ x ∈ sources .sio, P x) ↔ ∃ c k, P (.sio c k) := by
  constructor
  · rintro ⟨x, hx, hp⟩
    have hdevice := (mem_sources_iff x .sio).mp hx
    cases x with
    | sio c k => exact ⟨c, k, hp⟩
    | ctc | pio => cases hdevice
  · rintro ⟨c, k, hp⟩
    exact ⟨_, mem_sources_sio c k, hp⟩

/-- Settles O50: the answers are those of `State.isRequested_iff` and `State.isAccepted_iff`, source by source. -/
theorem queriesReportSourceFlags : Obligations.QueriesReportSourceFlags := by
  unfold Obligations.QueriesReportSourceFlags
  intro s
  have hrequested (d : Device) : s.isRequested d = true ↔
      ∃ x ∈ sources d, s.requested x = true ∧ s.accepted x = false := by
    simp only [s.isRequested_iff, s.pending_iff]
  refine ⟨⟨_, _, rfl, rfl, (hrequested .ctc).trans ?_, (s.isAccepted_iff .ctc).trans ?_⟩,
    ⟨_, _, rfl, rfl, (hrequested .pio).trans ?_, (s.isAccepted_iff .pio).trans ?_⟩,
    ⟨_, _, rfl, rfl, (hrequested .sio).trans ?_, (s.isAccepted_iff .sio).trans ?_⟩⟩
  · exact exists_mem_sources_ctc
  · exact exists_mem_sources_ctc
  · exact exists_mem_sources_pio
  · exact exists_mem_sources_pio
  · exact exists_mem_sources_sio
  · exact exists_mem_sources_sio

/-! ## The model's mark on the CTC is seen by no source (log 9) -/

/-- The state with the mark set to `o`. -/
def State.marked (s : State) (o : Bool) : State := { s with ctcOperated := o }

@[simp] theorem State.requested_marked (s : State) (o : Bool) (x : Source) :
    (s.marked o).requested x = s.requested x := by
  cases x <;> rfl

@[simp] theorem State.accepted_marked (s : State) (o : Bool) (x : Source) : (s.marked o).accepted x = s.accepted x := by
  cases x <;> rfl

@[simp] theorem State.vectorOf_marked (s : State) (o : Bool) (x : Source) : (s.marked o).vectorOf x = s.vectorOf x := by
  cases x <;> rfl

theorem State.setFlags_marked (s : State) (o : Bool) (x : Source) (r a : Bool) :
    (s.marked o).setFlags x r a = (s.setFlags x r a).marked o := by
  cases x <;> rfl

theorem State.setFlags_returning (s : State) (x : Source) (r a : Bool) (v : Reply) :
    (s.returning v).setFlags x r a = (s.setFlags x r a).returning v := by
  cases x <;> rfl

/-! ## Acceptances (40_contracts.md R126) -/

/-- The first pending source in the device's order goes in service. -/
theorem acceptDevice_of_first (d : Device) (s : State) {pre post : List Source} {x : Source}
    (hl : sources d = pre ++ x :: post) (hpre : ∀ y ∈ pre, s.pending y = false) (hx : s.pending x = true) :
    acceptDevice d s = .next ((s.setFlags x false true).returning (.byte (s.vectorOf x))) := by
  have hfind : (sources d).find? s.pending = some x :=
    List.find?_eq_some_iff_append.mpr ⟨hx, pre, post, hl, fun y hy => by simp [hpre y hy]⟩
  simp only [acceptDevice, hfind]

theorem acceptDevice_of_none (d : Device) (s : State) (h : ∀ x ∈ sources d, s.pending x = false) :
    acceptDevice d s = .refused .acceptWithoutRequest := by
  rcases acceptDevice_spec d s with ⟨pre, x, post, hl, -, hx, -⟩ | ⟨-, he⟩
  · simp [h x (by simp [hl])] at hx
  · exact he

theorem State.pending_eq_false_iff (s : State) (x : Source) :
    s.pending x = false ↔ s.requested x = false ∨ s.accepted x = true := by
  rw [State.pending, Bool.and_eq_false_iff, Bool.not_eq_false']

theorem State.pending_marked (s : State) (o : Bool) (x : Source) : (s.marked o).pending x = s.pending x := by
  simp [State.pending]

/-- Each acceptance, and each vector row, is `acceptDevice`, which for the CTC leaves the mark. -/
theorem exec_of_accept {op : Instr} {d : Device}
    (h : (op, d) ∈ [(Instr.ctcAccept, Device.ctc), (.ctcVector, .ctc), (.pioAccept, .pio), (.pioVector, .pio),
      (.sioAccept, .sio), (.sioVector, .sio)]) (s : State) :
    exec op s = acceptDevice d (s.marked (s.ctcOperated || decide (d = .ctc))) := by
  have hctc : s.marked (s.ctcOperated || decide (Device.ctc = .ctc)) = s.markCtc := by
    simp only [decide_true, Bool.or_true]
    rfl
  have hother (e : Device) (he : e ≠ .ctc) : s.marked (s.ctcOperated || decide (e = .ctc)) = s := by
    simp only [he, decide_false, Bool.or_false]
    rfl
  simp only [List.mem_cons, Prod.mk.injEq, List.not_mem_nil, or_false] at h
  rcases h with ⟨rfl, rfl⟩ | ⟨rfl, rfl⟩ | ⟨rfl, rfl⟩ | ⟨rfl, rfl⟩ | ⟨rfl, rfl⟩ | ⟨rfl, rfl⟩
  · rw [hctc]
    rfl
  · rw [hctc]
    rfl
  · rw [hother .pio (by decide)]
    rfl
  · rw [hother .pio (by decide)]
    rfl
  · rw [hother .sio (by decide)]
    rfl
  · rw [hother .sio (by decide)]
    rfl

/-- Settles O51: the first pending source is the one taken. -/
theorem acceptTakesFirstPendingSource : Obligations.AcceptTakesFirstPendingSource := by
  unfold Obligations.AcceptTakesFirstPendingSource
  intro op d s hop
  rw [exec_of_accept hop s]
  constructor
  · intro pre x post hl hpre hreq hfree
    have hx : s.pending x = true := (s.pending_iff x).mpr ⟨hreq, hfree⟩
    have haccept := acceptDevice_of_first d (s.marked (s.ctcOperated || decide (d = .ctc))) hl
      (fun y hy => by rw [State.pending_marked, State.pending_eq_false_iff]; exact hpre y hy)
      (by rw [State.pending_marked]; exact hx)
    refine ⟨s.vectorOf x, s.isVector_vectorOf x, ?_⟩
    rw [haccept, State.setFlags_marked, State.vectorOf_marked]
    rfl
  · intro hnone
    exact acceptDevice_of_none d _ fun x hx => by
      rw [State.pending_marked, State.pending_eq_false_iff]; exact hnone x hx

/-! ## Returns (40_contracts.md R127) -/

theorem exec_pioFinish (s : State) : exec .pioFinish s = .next ((finishDevice .pio s).returning .unit) := rfl

theorem exec_sioFinish (s : State) : exec .sioFinish s = .next ((finishDevice .sio s).returning .unit) := rfl

/-- Settles O54: the first accepted source is the one released. -/
theorem pioAndSioFinishReleaseFirstAccepted : Obligations.PioAndSioFinishReleaseFirstAccepted := by
  unfold Obligations.PioAndSioFinishReleaseFirstAccepted
  intro op d s hop
  have hexec : exec op s = .next ((finishDevice d s).returning .unit) := by
    simp only [List.mem_cons, Prod.mk.injEq, List.not_mem_nil, or_false] at hop
    rcases hop with ⟨rfl, rfl⟩ | ⟨rfl, rfl⟩
    · exact exec_pioFinish s
    · exact exec_sioFinish s
  rw [hexec]
  constructor
  · intro pre x post hl hpre hx
    rw [finishDevice_of_first d s pre post x hl hpre hx]
    rfl
  · intro hnone
    rw [finishDevice_of_none d s hnone]
    rfl

/-! ## The chain (60_exceptions.md R275 to R277) -/

/-- A walk at most sets the mark. -/
theorem State.markWalk_eq_marked (s : State) (ends : Device → Bool) : ∃ o, s.markWalk ends = s.marked o :=
  s.markWalk_eq ends

theorem exec_chainRequest (s : State) :
    ∃ o, exec .chainRequest s = .next { s with ctcOperated := o, reply := .device s.chainRequest } := by
  obtain ⟨o, ho⟩ := s.markWalk_eq_marked fun d => s.isAccepted d || s.isRequested d
  have hexec : exec .chainRequest s =
      .next ((s.markWalk fun d => s.isAccepted d || s.isRequested d).returning (.device s.chainRequest)) := rfl
  refine ⟨o, ?_⟩
  rw [hexec, ho]
  rfl

theorem exec_chainAccept_of_some {s : State} {d : Device} (h : s.chainRequest = some d) :
    ∃ o, exec .chainAccept s = acceptDevice d (s.marked o) := by
  obtain ⟨o, ho⟩ := s.markWalk_eq_marked fun d => s.isAccepted d || s.isRequested d
  have hexec : exec .chainAccept s = execChainAccept s := rfl
  refine ⟨o, ?_⟩
  rw [hexec, execChainAccept, h, ho]

theorem exec_chainAccept_of_none {s : State} (h : s.chainRequest = none) :
    exec .chainAccept s = .refused .acceptWithoutRequest := by
  have hexec : exec .chainAccept s = execChainAccept s := rfl
  rw [hexec, execChainAccept, h]

/-- A device that requests accepts, whatever the mark. -/
theorem acceptDevice_of_requested {d : Device} {s : State} (h : s.isRequested d = true) :
    ∃ t : State, ∀ o, acceptDevice d (s.marked o) = .next (t.marked o) := by
  rcases acceptDevice_spec d s with ⟨pre, x, post, hl, hpre, hx, -⟩ | ⟨hnone, -⟩
  · refine ⟨(s.setFlags x false true).returning (.byte (s.vectorOf x)), fun o => ?_⟩
    rw [acceptDevice_of_first d (s.marked o) hl (fun y hy => (s.pending_marked o y).trans (hpre y hy))
      ((s.pending_marked o x).trans hx), State.setFlags_marked, State.vectorOf_marked]
    rfl
  · obtain ⟨x, hx, hp⟩ := (s.isRequested_iff d).mp h
    simp [hnone x hx] at hp

/-- Settles O55: the device the walk finds is the one of the statement, and its acceptance differs from the chain's only
in the mark. -/
theorem chainServesFirstRequestingDevice : Obligations.ChainServesFirstRequestingDevice := by
  unfold Obligations.ChainServesFirstRequestingDevice
  intro s
  obtain ⟨o, hrequest⟩ := exec_chainRequest s
  constructor
  · intro pre d post hl hpre hfree hreq
    have hd : s.chainRequest = some d := (chainWalk_eq_some s _ d).mpr ⟨pre, post, hl, hpre, hfree, hreq⟩
    refine ⟨⟨o, hd ▸ hrequest⟩, ?_⟩
    obtain ⟨o', hchain⟩ := exec_chainAccept_of_some hd
    obtain ⟨t, ht⟩ := acceptDevice_of_requested hreq
    obtain ⟨op, hop⟩ : ∃ op, (op, d) ∈ [(Instr.ctcAccept, Device.ctc), (.pioAccept, .pio), (.sioAccept, .sio)] := by
      cases d <;> simp
    have hsub : [(Instr.ctcAccept, Device.ctc), (.pioAccept, .pio), (.sioAccept, .sio)] ⊆
        [(Instr.ctcAccept, Device.ctc), (.ctcVector, .ctc), (.pioAccept, .pio), (.pioVector, .pio), (.sioAccept, .sio),
          (.sioVector, .sio)] := by decide
    have haccept := exec_of_accept (hsub hop) s
    exact ⟨op, o', _, hop, haccept.trans (ht _), hchain.trans (ht o')⟩
  · intro hnone
    have hd : s.chainRequest = none := by
      rw [Option.eq_none_iff_forall_ne_some]
      intro d hd
      obtain ⟨pre, post, h⟩ := (chainWalk_eq_some s _ d).mp hd
      exact hnone ⟨pre, d, post, h⟩
    exact ⟨⟨o, hd ▸ hrequest⟩, exec_chainAccept_of_none hd⟩

theorem State.isAccepted_eq_false_iff (s : State) (d : Device) :
    s.isAccepted d = false ↔ ∀ x ∈ sources d, s.accepted x = false := by
  simp [State.isAccepted]

/-- With no source in service the walk releases nothing. -/
theorem exec_chainFinish_of_none {s : State} (h : ∀ d, s.isAccepted d = false) :
    exec .chainFinish s = .next ((s.markWalk s.isAccepted).returning .unit) := by
  have hexec : exec .chainFinish s = execChainFinish s := rfl
  have hnone : s.chainServed = none := List.find?_eq_none.mpr fun d _ => by simp [h d]
  rw [hexec, execChainFinish, hnone]

/-- Settles O56: the device served is the one of the statement, and its first accepted source is released. -/
theorem chainFinishReleasesFirstDevice : Obligations.ChainFinishReleasesFirstDevice := by
  unfold Obligations.ChainFinishReleasesFirstDevice
  intro s
  obtain ⟨o, ho⟩ := s.markWalk_eq_marked s.isAccepted
  constructor
  · intro pre d post front x back hl hpre hsources hfront hx
    have hserved : s.chainServed = some d :=
      chainServed_of_first hl (fun e he => (s.isAccepted_eq_false_iff e).mpr (hpre e he))
        ((s.isAccepted_iff d).mpr ⟨x, by simp [hsources], hx⟩)
    refine ⟨o, ?_⟩
    rw [exec_chainFinish_of_served hserved, ho, finishDevice_of_first d _ front back x hsources
      (fun y hy => by simp [hfront y hy]) (by simp [hx]), State.setFlags_returning, State.setFlags_marked,
      State.requested_returning, State.requested_marked]
    rfl
  · intro hnone
    refine ⟨o, ?_⟩
    rw [exec_chainFinish_of_none fun d => (s.isAccepted_eq_false_iff d).mpr fun x _ => hnone x, ho]
    rfl

end Sys2Proof.Machine
